-- ==== Sys2Proof/Word.lean ====
section
/-! DEFINITION. The types of values (00_scope.md R8): every value is unsigned. -/

namespace Sys2Proof

/-- A Byte, 0 to 255 (R8). -/
abbrev Byte := BitVec 8

/-- A Word, 0 to 65535 (R8): the unit of arguments and of results. -/
abbrev Word := BitVec 16

/-- A 7-bit bus address (R8, R11). -/
abbrev Addr7 := BitVec 7

/-- A 48-bit serial number (R119). -/
abbrev Serial := BitVec 48

/-- A finite ordered sequence of bytes, possibly empty (R8). -/
abbrev Bytes := List Byte

/-- A finite ordered sequence of words (R8). -/
abbrev Words := List Word

/-- A non-negative duration, counted in whole milliseconds (R8, R174; log entry 7). -/
abbrev Dur := Nat

end Sys2Proof
end

