-- ==== Sys2Proof/Syntax.lean ====
section
/-! DEFINITION. The operations of the block and of the command layer above it, and the form in which a caller
presents one at the block's port (30_encoding.md R56, R61, R62, R65). -/

namespace Sys2Proof

/-- The nine commands of the command layer (R56). -/
inductive Command where
  | iaqInit
  | measureIaq
  | measureRaw
  | selfTest
  | getBaseline
  | setBaseline
  | setHumidity
  | getSerial
  | softReset
  deriving DecidableEq, Repr

/-- The six operations a caller can ask of the block itself (R61). -/
inductive BlockOp where
  | crc8
  | encWord
  | decGroup
  | wrFrame
  | rdWords
  | xfer
  deriving DecidableEq, Repr

/-- One constructor per row of the opcode table, with its operands passed by value (R13, R65). -/
inductive Instr where
  /-- `IAQ_INIT -> ()` (R112). -/
  | iaqInit
  /-- `MEASURE_IAQ -> (eco2, tvoc)` (R113). -/
  | measureIaq
  /-- `MEASURE_RAW -> (raw_h2, raw_ethanol)` (R114). -/
  | measureRaw
  /-- `SELF_TEST -> pass` (R115). -/
  | selfTest
  /-- `GET_BASELINE -> (eco2, tvoc)` (R116). -/
  | getBaseline
  /-- `SET_BASELINE eco2, tvoc -> ()`, the operands in logical order (R117, R126). -/
  | setBaseline (eco2 tvoc : Word)
  /-- `SET_HUMIDITY v -> ()`, v a rational number of grams per cubic metre (R118, R124). -/
  | setHumidity (v : Rat)
  /-- `GET_SERIAL -> id` (R119). -/
  | getSerial
  /-- `SOFT_RESET -> ()` (R120). -/
  | softReset
  /-- `CRC8 bs -> c` (R78). -/
  | crc8 (bs : Bytes)
  /-- `ENC_WORD w -> [b0, b1, b2]` (R91). -/
  | encWord (w : Word)
  /-- `DEC_GROUP [b0, b1, b2] -> w` (R92). -/
  | decGroup (b0 b1 b2 : Byte)
  /-- `WR_FRAME op, args -> ()`, the words in wire order (R95). -/
  | wrFrame (op : Word) (args : Words)
  /-- `RD_WORDS n, d -> words` (R98). -/
  | rdWords (n : Nat) (d : Dur)
  /-- `XFER op, args, n, d -> words` (R110). -/
  | xfer (op : Word) (args : Words) (n : Nat) (d : Dur)
  deriving DecidableEq, Repr

/-- What selects an operation: a command by the full 16 bits of its opcode (R56), an operation of the block by its
4-bit select code OPSEL (R62).  The two are separate code spaces. -/
inductive Select where
  | command (opcode : Word)
  | block (opsel : BitVec 4)
  deriving DecidableEq, Repr

/-- The operands a caller presents with a request, by value (R13); one constructor per operand shape of R61 and of the
commands.  The spec gives operands no bits, so they are typed values here (log entry 3). -/
inductive Operands where
  /-- no operand -/
  | empty
  /-- the byte sequence of CRC8 -/
  | bytes (bs : Bytes)
  /-- the word of ENC_WORD -/
  | word (w : Word)
  /-- the three bytes of DEC_GROUP, first on the bus first -/
  | group (b0 b1 b2 : Byte)
  /-- the opcode and argument words of WR_FRAME -/
  | frame (op : Word) (args : Words)
  /-- the word count and settling delay of RD_WORDS -/
  | read (n : Nat) (d : Dur)
  /-- the four operands of XFER -/
  | transfer (op : Word) (args : Words) (n : Nat) (d : Dur)
  /-- the two words of SET_BASELINE in logical order -/
  | pair (eco2 tvoc : Word)
  /-- the real value of SET_HUMIDITY -/
  | real (v : Rat)
  deriving DecidableEq, Repr

/-- One operation as the caller presents it at the port: its select code and its operands. -/
structure Request where
  select : Select
  operands : Operands
  deriving DecidableEq, Repr

end Sys2Proof
end

