-- ==== Sys2Proof/Config.lean ====
section
/-! DEFINITION. What is fixed before the first operation (10_state.md R16): the constants of 00_scope.md R5, the
configurable delays of R6, the contract types of the two collaborators (60_exceptions.md R145 to R147), and the values
the spec leaves open, as constants without a body. -/

namespace Sys2Proof

namespace Config

/-- CRC_POLY (R5). -/
def crcPoly : Byte := 0x31

/-- CRC_INIT (R5). -/
def crcInit : Byte := 0xFF

/-- ADDR_DEFAULT (R5): the bus address when construction gives none. -/
def addrDefault : Addr7 := 0x58

/-- GROUP_BYTES (R5): bytes per word on the bus. -/
def groupBytes : Nat := 3

/-- OPCODE_BYTES (R5): bytes of a command opcode, sent without a checksum. -/
def opcodeBytes : Nat := 2

/-- N_ARGS_MAX (R5): the most argument words the port takes (R96). -/
def nArgsMax : Nat := 2

/-- N_WORDS_MAX (R5): the most response words the port takes (R101). -/
def nWordsMax : Nat := 3

/-- SELFTEST_PASS (R5): the word that means the self-test passed. -/
def selftestPass : Word := 0xD400

end Config

/-- The nine settling delays of R6, in milliseconds. -/
structure Delays where
  iaqInit : Dur
  measureIaq : Dur
  measureRaw : Dur
  selfTest : Dur
  getBaseline : Dur
  setBaseline : Dur
  setHumidity : Dur
  getSerial : Dur
  softReset : Dur
  deriving DecidableEq, Repr

/-- The default delays of R6; "none" is 0 (90_conflicts.md C2). -/
def Delays.nominal : Delays where
  iaqInit := 10
  measureIaq := 15
  measureRaw := 20
  selfTest := 200
  getBaseline := 15
  setBaseline := 0
  setHumidity := 0
  getSerial := 1
  softReset := 0

/-- What the bus reports of a write (R145). -/
inductive WriteAnswer where
  | ok
  | fail
  deriving DecidableEq, Repr, Inhabited

/-- What the bus hands back from a read (R146): a failure, or bytes of any number. -/
inductive ReadAnswer where
  | fail
  | bytes (bs : Bytes)
  deriving DecidableEq, Repr, Inhabited

/-- What becomes of a bus call: it returns with an answer (R148), or it never returns (R175). -/
inductive Reply (α : Type) where
  | returned (answer : α)
  | neverReturns
  deriving DecidableEq, Repr, Inhabited

/-- One collaborator call with its arguments and, when it has returned, its outcome (R42, R45): `W(a, bs, ok|fail)`,
`S(d)`, `R(a, n, fail|bs')`; and a write or a read that was made and has not returned (R175), which has none. -/
inductive Event where
  | write (a : Addr7) (bs : Bytes) (r : WriteAnswer)
  | sleep (d : Dur)
  | read (a : Addr7) (n : Nat) (r : ReadAnswer)
  | writePending (a : Addr7) (bs : Bytes)
  | readPending (a : Addr7) (n : Nat)
  deriving DecidableEq, Repr

/-- The event of a write, whatever becomes of it (R42). -/
def Event.ofWrite (a : Addr7) (bs : Bytes) : Reply WriteAnswer → Event
  | .returned r => .write a bs r
  | .neverReturns => .writePending a bs

/-- The event of a read, whatever becomes of it (R42). -/
def Event.ofRead (a : Addr7) (n : Nat) : Reply ReadAnswer → Event
  | .returned r => .read a n r
  | .neverReturns => .readPending a n

namespace Config

/-- FREE VALUE.  The oracle of R45 for a bus write that the caller's bus script does not answer: what becomes of the
write of `bs` to `a` on the bus `handle` after the calls of `history`.  Nothing is assumed of it (log entry 5). -/
opaque busWrite (handle : Nat) (history : List Event) (a : Addr7) (bs : Bytes) : Reply WriteAnswer

/-- FREE VALUE.  The oracle of R45 for a bus read of `n` bytes (log entry 5). -/
opaque busRead (handle : Nat) (history : List Event) (a : Addr7) (n : Nat) : Reply ReadAnswer

/-- FREE VALUE.  HUM_ROUND_TIES (R6, R124): for a tie whose integer part is `k`, whether `round` goes up to `k + 1`
(true) or down to `k` (false) (log entry 6). -/
opaque humTieUp (k : Int) : Bool

/-- FREE VALUE.  What `ACC` holds after an operation (R17; log entry 8). -/
opaque staleAcc (k : Nat) : Byte

/-- FREE VALUE.  What `TXBUF` holds after an operation (R18; log entry 8). -/
opaque staleTx (k : Nat) : Bytes

/-- FREE VALUE.  What `RXBUF` holds after an operation (R19; log entry 8). -/
opaque staleRx (k : Nat) : Bytes

end Config

end Sys2Proof
end

