-- ==== Sys2Proof/WellFormed.lean ====
section
/-! DEFINITION. Which operations the port takes: at most two argument words and at most three response words
(41_framer.md R96, R101).  Every other operand is kept in range by its type (R126). -/

namespace Sys2Proof

/-- Why the port turns an operation away.  Such a request is refused, not truncated (R96, R101). -/
inductive Malformed where
  /-- more than N_ARGS_MAX argument words (R96) -/
  | tooManyArguments
  /-- more than N_WORDS_MAX response words (R101) -/
  | tooManyWords
  deriving DecidableEq, Repr

/-- The argument check of R96. -/
def Instr.argsMalformed (args : Words) : Option Malformed :=
  if args.length ≤ Config.nArgsMax then none else some .tooManyArguments

/-- The word count check of R101. -/
def Instr.countMalformed (n : Nat) : Option Malformed :=
  if n ≤ Config.nWordsMax then none else some .tooManyWords

/-- What is wrong with an operation, if anything. -/
def Instr.malformed : Instr → Option Malformed
  | .iaqInit => none
  | .measureIaq => none
  | .measureRaw => none
  | .selfTest => none
  | .getBaseline => none
  | .setBaseline _ _ => none
  | .setHumidity _ => none
  | .getSerial => none
  | .softReset => none
  | .crc8 _ => none
  | .encWord _ => none
  | .decGroup _ _ _ => none
  | .wrFrame _ args => Instr.argsMalformed args
  | .rdWords n _ => Instr.countMalformed n
  | .xfer _ args n _ => (Instr.argsMalformed args).or (Instr.countMalformed n)

/-- The operation may be presented at the port. -/
abbrev Instr.WellFormed (i : Instr) : Prop := i.malformed = none

end Sys2Proof
end

