-- ==== Sys2Proof/Decode.lean ====
section
/-! DEFINITION. The opcode map and the select codes (30_encoding.md R56, R62), the decoder of a request, which
rejects by name, and after it the encoder. -/

namespace Sys2Proof

/-! ### The tables -/

/-- The opcode column of R56. -/
def Command.opcode : Command → Word
  | .iaqInit => 0x2003
  | .measureIaq => 0x2008
  | .measureRaw => 0x2050
  | .selfTest => 0x2032
  | .getBaseline => 0x2015
  | .setBaseline => 0x201E
  | .setHumidity => 0x2061
  | .getSerial => 0x3682
  | .softReset => 0x0006

/-- The args column of R56: how many argument words the command's write frame carries. -/
def Command.nArgs : Command → Nat
  | .iaqInit => 0
  | .measureIaq => 0
  | .measureRaw => 0
  | .selfTest => 0
  | .getBaseline => 0
  | .setBaseline => 2
  | .setHumidity => 1
  | .getSerial => 0
  | .softReset => 0

/-- The reads column of R56: how many response words the command reads. -/
def Command.nReads : Command → Nat
  | .iaqInit => 0
  | .measureIaq => 2
  | .measureRaw => 2
  | .selfTest => 1
  | .getBaseline => 2
  | .setBaseline => 0
  | .setHumidity => 0
  | .getSerial => 3
  | .softReset => 0

/-- The delay column of R56: the parameter of R6 that the command uses. -/
def Command.delay (d : Delays) : Command → Dur
  | .iaqInit => d.iaqInit
  | .measureIaq => d.measureIaq
  | .measureRaw => d.measureRaw
  | .selfTest => d.selfTest
  | .getBaseline => d.getBaseline
  | .setBaseline => d.setBaseline
  | .setHumidity => d.setHumidity
  | .getSerial => d.getSerial
  | .softReset => d.softReset

/-- The rows of R56, in its order. -/
def Command.all : List Command :=
  [.iaqInit, .measureIaq, .measureRaw, .selfTest, .getBaseline, .setBaseline, .setHumidity, .getSerial, .softReset]

/-- The command an opcode selects, matched on all 16 bits (R56). -/
def Command.ofOpcode (op : Word) : Option Command :=
  Command.all.find? fun c => c.opcode == op

/-- The select code of R62. -/
def BlockOp.opsel : BlockOp → BitVec 4
  | .crc8 => 0x0
  | .encWord => 0x1
  | .decGroup => 0x2
  | .wrFrame => 0x3
  | .rdWords => 0x4
  | .xfer => 0x5

/-- The rows of R62, in its order. -/
def BlockOp.all : List BlockOp :=
  [.crc8, .encWord, .decGroup, .wrFrame, .rdWords, .xfer]

/-- The operation a select code selects; 0x6 to 0xF are reserved and select none (R62, R63). -/
def BlockOp.ofOpsel (sel : BitVec 4) : Option BlockOp :=
  BlockOp.all.find? fun b => b.opsel == sel

/-! ### The decoder -/

/-- Why a request decodes to no operation. -/
inductive Reject where
  /-- a select code of 0x6 to 0xF: it selects no operation (R63) -/
  | reservedSelect (opsel : BitVec 4)
  /-- an opcode the command layer has no operation for (R58) -/
  | unknownOpcode (opcode : Word)
  /-- operands of another operation's shape: the port has no place for them (R61) -/
  | wrongOperands
  /-- more words than the port takes (R96, R101) -/
  | malformed (m : Malformed)
  deriving DecidableEq, Repr

/-- The operation a command and its operands make. -/
def decodeCommand : Command → Operands → Except Reject Instr
  | .iaqInit, .empty => .ok .iaqInit
  | .measureIaq, .empty => .ok .measureIaq
  | .measureRaw, .empty => .ok .measureRaw
  | .selfTest, .empty => .ok .selfTest
  | .getBaseline, .empty => .ok .getBaseline
  | .setBaseline, .pair eco2 tvoc => .ok (.setBaseline eco2 tvoc)
  | .setHumidity, .real v => .ok (.setHumidity v)
  | .getSerial, .empty => .ok .getSerial
  | .softReset, .empty => .ok .softReset
  | _, _ => .error .wrongOperands

/-- The operation a block operation and its operands make. -/
def decodeBlock : BlockOp → Operands → Except Reject Instr
  | .crc8, .bytes bs => .ok (.crc8 bs)
  | .encWord, .word w => .ok (.encWord w)
  | .decGroup, .group b0 b1 b2 => .ok (.decGroup b0 b1 b2)
  | .wrFrame, .frame op args => .ok (.wrFrame op args)
  | .rdWords, .read n d => .ok (.rdWords n d)
  | .xfer, .transfer op args n d => .ok (.xfer op args n d)
  | _, _ => .error .wrongOperands

/-- The operation a request selects, before the port's length checks.  DESIGN CHOICE (log entry 16): a wrong code is named
before operands of a wrong shape, and these before a word limit. -/
def decodeSelect (r : Request) : Except Reject Instr :=
  match r.select with
  | .command opcode =>
    match Command.ofOpcode opcode with
    | some c => decodeCommand c r.operands
    | none => .error (.unknownOpcode opcode)
  | .block opsel =>
    match BlockOp.ofOpsel opsel with
    | some b => decodeBlock b r.operands
    | none => .error (.reservedSelect opsel)

/-- The operation a request stands for, or the reason it stands for none.  Total on all requests. -/
def decode (r : Request) : Except Reject Instr :=
  match decodeSelect r with
  | .error e => .error e
  | .ok i =>
    match i.malformed with
    | some m => .error (.malformed m)
    | none => .ok i

/-! ### The encoder -/

/-- The request of an operation, written from the tables of R56 and R62. -/
def encode : Instr → Request
  | .iaqInit => ⟨.command 0x2003, .empty⟩
  | .measureIaq => ⟨.command 0x2008, .empty⟩
  | .measureRaw => ⟨.command 0x2050, .empty⟩
  | .selfTest => ⟨.command 0x2032, .empty⟩
  | .getBaseline => ⟨.command 0x2015, .empty⟩
  | .setBaseline eco2 tvoc => ⟨.command 0x201E, .pair eco2 tvoc⟩
  | .setHumidity v => ⟨.command 0x2061, .real v⟩
  | .getSerial => ⟨.command 0x3682, .empty⟩
  | .softReset => ⟨.command 0x0006, .empty⟩
  | .crc8 bs => ⟨.block 0x0, .bytes bs⟩
  | .encWord w => ⟨.block 0x1, .word w⟩
  | .decGroup b0 b1 b2 => ⟨.block 0x2, .group b0 b1 b2⟩
  | .wrFrame op args => ⟨.block 0x3, .frame op args⟩
  | .rdWords n d => ⟨.block 0x4, .read n d⟩
  | .xfer op args n d => ⟨.block 0x5, .transfer op args n d⟩

/-! ### The opcode table's words -/

/-- The operands of a command with every operand word zero. -/
def Command.zeroOperands : Command → Operands
  | .setBaseline => .pair 0 0
  | .setHumidity => .real 0
  | _ => .empty

/-- The operands of a block operation with every operand zero or empty. -/
def BlockOp.zeroOperands : BlockOp → Operands
  | .crc8 => .bytes []
  | .encWord => .word 0
  | .decGroup => .group 0 0 0
  | .wrFrame => .frame 0 []
  | .rdWords => .read 0 0
  | .xfer => .transfer 0 [] 0 0

/-- The operands that a select code asks for, all zero; none for a code that selects nothing. -/
def Select.zeroOperands : Select → Operands
  | .command opcode => ((Command.ofOpcode opcode).map Command.zeroOperands).getD .empty
  | .block opsel => ((BlockOp.ofOpsel opsel).map BlockOp.zeroOperands).getD .empty

/-- The select code of a row of spec/opcode_table.json: a row of 16 bits is a command opcode, a row of 4 bits (one
byte when counted in whole bytes, of which the table fixes the low 4) is an OPSEL (log entry 3). -/
def Select.ofTableWord (nbits w : Nat) : Select :=
  if nbits ≤ 8 then .block (BitVec.ofNat 4 w) else .command (BitVec.ofNat 16 w)

/-- The request of a table word with operands of zero. -/
def Request.ofTableWord (nbits w : Nat) : Request :=
  ⟨Select.ofTableWord nbits w, (Select.ofTableWord nbits w).zeroOperands⟩

/-- The operation the decoder reads from a table word, or none where it rejects it. -/
def decodeTableWord (nbits w : Nat) : Option Instr :=
  match decode (Request.ofTableWord nbits w) with
  | .ok i => some i
  | .error _ => none

end Sys2Proof
end

