-- ==== Sys2Proof/Machine/State.lean ====
section
/-! DEFINITION. The state of one instance of the block (10_state.md), the kinds of error an operation can end with
(60_exceptions.md), the reasons a step can stop, and construction, which is the reset (70_reset_and_hazards.md R160). -/

namespace Sys2Proof.Machine

/-- The four error kinds (R130).  An error carries its kind and nothing else (R136).  It is the result of the operation
that met it, not a stop of the machine (R15, R139). -/
inductive Kind where
  | transportError
  | framingLengthError
  | checksumError
  | invalidArgumentError
  deriving DecidableEq, Repr

/-- `Result T` of R8: a value, or exactly one error kind. -/
inductive Result (α : Type) where
  | ok (v : α)
  | err (k : Kind)
  deriving DecidableEq, Repr

/-- The values the operations return to their caller (R54, R61, R112 to R120). -/
inductive Value where
  /-- `()` -/
  | unit
  /-- the checksum of CRC8 -/
  | byte (c : Byte)
  /-- the three bytes of ENC_WORD -/
  | group (b0 b1 b2 : Byte)
  /-- the word of DEC_GROUP -/
  | word (w : Word)
  /-- the words of RD_WORDS and XFER, in wire order -/
  | words (ws : Words)
  /-- the Reading of MEASURE_IAQ -/
  | reading (eco2 tvoc : Word)
  /-- the pair of MEASURE_RAW -/
  | rawSignals (h2 ethanol : Word)
  /-- the verdict of SELF_TEST -/
  | verdict (pass : Bool)
  /-- the Baseline of GET_BASELINE, in logical order -/
  | baseline (eco2 tvoc : Word)
  /-- the Serial ID of GET_SERIAL -/
  | serial (id : Serial)
  deriving DecidableEq, Repr

/-- PHASE (R14): the step of the operation template the block is in. -/
inductive Phase where
  | idle
  | validate
  | build
  | write
  | delay
  | read
  | verify
  | interpret
  deriving DecidableEq, Repr

/-- The bus of an instance (R12, R45): which bus it is, the calls made so far with what became of each, and the bus script,
that is the answers the world outside has fixed for the calls to come, first call first (95_test_vectors.md section 3).
A call that the script does not answer is answered by the oracle of `Config` (log entry 5). -/
structure Bus where
  handle : Nat
  history : List Event
  writeReplies : List (Reply WriteAnswer)
  readReplies : List (Reply ReadAnswer)
  deriving DecidableEq, Repr

/-- One instance of the block, and the caller's side of its port. -/
structure State where
  /-- `ADDR` (R11): fixed at construction. -/
  addr : Addr7
  /-- `BUS` (R12): fixed at construction; its history grows with every collaborator call (R45). -/
  bus : Bus
  /-- The configuration's delays (R6, R16): written by no operation. -/
  delays : Delays
  /-- `PHASE` (R14). -/
  phase : Phase
  /-- `ACC` (R17): the checksum accumulator. -/
  acc : Byte
  /-- `TXBUF` (R18): the write frame under construction. -/
  txbuf : Bytes
  /-- `RXBUF` (R19): the bytes of the operation's read. -/
  rxbuf : Bytes
  /-- `ARG[0]`, `ARG[1]` (R13); an empty slot holds nothing (R22). -/
  arg : Vector (Option Word) 2
  /-- `RES[0]`, `RES[1]`, `RES[2]` (R13); an empty slot holds nothing (R22). -/
  res : Vector (Option Word) 3
  /-- MODEL'S OWN: what the last operation returned to its caller; nothing before the first and during one. -/
  result : Option (Result Value)
  /-- MODEL'S OWN: the operations the caller is still going to issue, in order (95_test_vectors.md section 3). -/
  requests : List Request
  /-- MODEL'S OWN: how many times free values have been drawn for the buffers (log entry 8). -/
  freeIndex : Nat
  deriving DecidableEq, Repr

/-- A fault of the machine.  There is none: every error of the spec is the result of the operation that met it (R15,
R139), and a bus call that never returns leaves the block waiting in its PHASE (R175).  No instruction raises one, so
the type is empty, which is safe. -/
inductive Fault where
  deriving DecidableEq, Repr

/-- Why a step is refused: the situations of which the spec says that a model has no step for them. -/
inductive Refusal where
  /-- No meaning yet, by mnemonic; raised by an arm of exec alone; safe. -/
  | notModelled (mnemonic : String)
  /-- The request selects no operation or does not fit the port (R58, R63, R96, R101); raised by step; safe. -/
  | undecodable (r : Reject)
  /-- More words than the port takes (R96, R101); raised by WR_FRAME, RD_WORDS and XFER; safe. -/
  | malformed (m : Malformed)
  /-- A second operation issued before the first has returned (R150); raised by every operation; safe. -/
  | overlappingOperation
  /-- Construction with an address above 127 (R11); raised by construction alone; safe. -/
  | addressOutOfRange (a : Nat)
  /-- A read of an operand slot that holds nothing (R13, R22); raised by the slot accessors alone; safe. -/
  | emptySlot (k : Nat)
  deriving DecidableEq, Repr

/-- A new instance on the bus `handle` with the address `a` (R22, R161): empty history, no operation in progress, empty
slots.  `ACC`, `TXBUF` and `RXBUF`, whose content R22 leaves unspecified, start at zero and empty (log entry 9). -/
def State.built (handle : Nat) (a : Addr7) : State where
  addr := a
  bus := { handle := handle, history := [], writeReplies := [], readReplies := [] }
  delays := Delays.nominal
  phase := .idle
  acc := 0
  txbuf := []
  rxbuf := []
  arg := #v[none, none]
  res := #v[none, none, none]
  result := none
  requests := []
  freeIndex := 0

/-- Construction (R160, R161, R11): the address given, or ADDR_DEFAULT; an address above 127 is refused. -/
def State.construct (handle : Nat) (a : Option Nat) : Host.Outcome State Fault Refusal :=
  match a with
  | none => .next (State.built handle Config.addrDefault)
  | some n => if n < 128 then .next (State.built handle (BitVec.ofNat 7 n)) else .refused (.addressOutOfRange n)

/-- The machine right after reset: an instance constructed with no address given, on the bus handle numbered 0 (log
entry 9). -/
def State.reset : State :=
  State.built 0 Config.addrDefault

end Sys2Proof.Machine
end

