-- ==== Sys2Proof/Machine/Operands.lean ====
section
/-! DEFINITION. How operands and results are put together from bits (30_encoding.md R50, R51, R54): the checksum
(40_crc.md), the word group, the write frame, the read frame, and the interpretations of 42_commands.md.  Pure
functions; the operations over State are in Ops.lean. -/

namespace Sys2Proof.Machine

/-! ### Bit fields (R9, R31) -/

/-- `w[15:8]`. -/
def hiByte (w : Word) : Byte := w.extractLsb' 8 8

/-- `w[7:0]`. -/
def loByte (w : Word) : Byte := w.extractLsb' 0 8

/-- `{hi, lo}`, the word `hi * 256 + lo` (R31). -/
def wordOf (hi lo : Byte) : Word := hi ++ lo

/-! ### The Checksum Engine -/

/-- One shift iteration (R73): bit 7 is tested before the shift, the bit shifted out is dropped. -/
def shift1 (a : Byte) : Byte :=
  if a.getLsbD 7 then (a <<< 1) ^^^ Config.crcPoly else a <<< 1

/-- One byte step (R74): the byte is XORed in, then eight shift iterations. -/
def crcStep (a b : Byte) : Byte :=
  shift1 (shift1 (shift1 (shift1 (shift1 (shift1 (shift1 (shift1 (a ^^^ b))))))))

/-- The checksum of a byte sequence (R70 to R76): the fold of the byte step from CRC_INIT. -/
def crc8 (bs : Bytes) : Byte :=
  bs.foldl crcStep Config.crcInit

/-! ### The word group -/

/-- The word group of a word (R50, R91): high byte, low byte, and the checksum of the two. -/
def encGroup (w : Word) : Bytes :=
  [hiByte w, loByte w, crc8 [hiByte w, loByte w]]

/-- The word of a group (R92): an error when the checksum recomputed over the two data bytes is not the third byte. -/
def decGroup (b0 b1 b2 : Byte) : Result Word :=
  if crc8 [b0, b1] ≠ b2 then .err .checksumError else .ok (wordOf b0 b1)

/-! ### Frames -/

/-- The two opcode bytes, most significant first (R32, decision D4): the order stands in this one definition. -/
def opcodeBytes (op : Word) : Bytes := [hiByte op, loByte op]

/-- The write frame of an opcode and its argument words in wire order (R51), for any number of words (R96). -/
def writeFrame (op : Word) (args : Words) : Bytes :=
  opcodeBytes op ++ args.flatMap encGroup

/-- The words of the groups of a read frame, group 0 first; the first group that fails ends it (R98, R99). -/
def decGroups : Bytes → Result Words
  | b0 :: b1 :: b2 :: rest =>
    match decGroup b0 b1 b2 with
    | .err k => .err k
    | .ok w =>
      match decGroups rest with
      | .err k => .err k
      | .ok ws => .ok (w :: ws)
  | _ => .ok []

/-- A read frame of `n` words (R98, R101): the length is tested first, then the groups in order. -/
def readFrame (n : Nat) (bs : Bytes) : Result Words :=
  if bs.length ≠ Config.groupBytes * n then .err .framingLengthError else decGroups bs

/-! ### Arguments and interpretations of the commands -/

/-- The Baseline order conversion (R121), the one function for both directions: logical (eCO2, TVOC) to wire (TVOC,
eCO2) and back. -/
def baselineSwap (p : Word × Word) : Word × Word := (p.2, p.1)

/-- `round(v * 256)` over the rationals (R124): the nearest integer; HUM_ROUND_TIES decides a tie. -/
def humRound (v : Rat) : Int :=
  let q := v.num * 256
  let k := q / (v.den : Int)
  let r := q % (v.den : Int)
  if 2 * r < v.den then k
  else if v.den < 2 * r then k + 1
  else if Config.humTieUp k then k + 1 else k

/-- The humidity encoding `hum_fix` (R124): unsigned 8.8 fixed point, masked to 16 bits, 0 replaced by 1 after the mask
(decision D14). -/
def humFix (v : Rat) : Word :=
  let h := BitVec.ofInt 16 (humRound v)
  if h = 0 then 1 else h

/-- MEASURE_IAQ (R113).  RD_WORDS gives the number of words asked for, so the last line is never reached; it hands the
words on as they are.  The same holds for the interpretations below. -/
def asReading : Words → Value
  | [w0, w1] => .reading w0 w1
  | ws => .words ws

/-- MEASURE_RAW (R114). -/
def asRawSignals : Words → Value
  | [w0, w1] => .rawSignals w0 w1
  | ws => .words ws

/-- SELF_TEST (R115): the verdict is whether the word equals SELFTEST_PASS. -/
def asVerdict : Words → Value
  | [w0] => .verdict (w0 = Config.selftestPass)
  | ws => .words ws

/-- GET_BASELINE (R116): swapped from wire order to logical order. -/
def asBaseline : Words → Value
  | [w0, w1] => .baseline (baselineSwap (w0, w1)).1 (baselineSwap (w0, w1)).2
  | ws => .words ws

/-- `{w0, w1, w2}`, the most significant word first (R33, R119). -/
def serialOf (w0 w1 w2 : Word) : Serial :=
  (w0.setWidth 48 <<< 32) ||| (w1.setWidth 48 <<< 16) ||| w2.setWidth 48

/-- GET_SERIAL (R119). -/
def asSerial : Words → Value
  | [w0, w1, w2] => .serial (serialOf w0 w1 w2)
  | ws => .words ws

/-- The commands with no result drop the empty word list (R112, R117, R118, R120). -/
def asUnit (_ : Words) : Value := .unit

end Sys2Proof.Machine
end

