-- ==== Sys2Proof/Machine/Flags.lean ====
section
/-! DEFINITION. The block has no flags and no condition codes (10_state.md R15): no operation writes one.  What stands
in their place is the status output of 60_exceptions.md R131, which is a view of the returned result. -/

namespace Sys2Proof.Machine

/-- The code of an error kind on `STATUS[2:0]` (R131). -/
def Kind.code : Kind → BitVec 3
  | .transportError => 1
  | .framingLengthError => 2
  | .checksumError => 3
  | .invalidArgumentError => 4

/-- `STATUS[2:0]` of a result (R131): 0 for a completed operation; 5 to 7 are never produced. -/
def Result.status {α : Type} : Result α → BitVec 3
  | .ok _ => 0
  | .err k => k.code

/-- The status output: that of the last operation's result, and nothing while there is no result. -/
def State.status (s : State) : Option (BitVec 3) :=
  s.result.map Result.status

end Sys2Proof.Machine
end

