-- ==== Sys2Proof/Machine/Ops.lean ====
section
/-! DEFINITION. The shared operations over State: the collaborator calls (20_memory.md, 60_exceptions.md R145 to R148),
the checksum engine on `ACC`, issuing an operation and returning from it, and raising an error (R139).  The meanings
of the instructions are built from these. -/

namespace Sys2Proof.Machine

/-! ### The bus -/

/-- What becomes of a write: the next answer of the script, else the oracle's (R45). -/
def Bus.writeReply (b : Bus) (a : Addr7) (bs : Bytes) : Reply WriteAnswer :=
  match b.writeReplies with
  | r :: _ => r
  | [] => Config.busWrite b.handle b.history a bs

/-- What becomes of a read of `n` bytes: the next answer of the script, else the oracle's (R45). -/
def Bus.readReply (b : Bus) (a : Addr7) (n : Nat) : Reply ReadAnswer :=
  match b.readReplies with
  | r :: _ => r
  | [] => Config.busRead b.handle b.history a n

/-- The bus after a write was made: the call is recorded, returned or not, and its answer is used up (R42, R45). -/
def Bus.afterWrite (b : Bus) (a : Addr7) (bs : Bytes) (r : Reply WriteAnswer) : Bus :=
  { b with history := b.history ++ [Event.ofWrite a bs r], writeReplies := b.writeReplies.tail }

/-- The bus after a read was made (R42, R45). -/
def Bus.afterRead (b : Bus) (a : Addr7) (n : Nat) (r : Reply ReadAnswer) : Bus :=
  { b with history := b.history ++ [Event.ofRead a n r], readReplies := b.readReplies.tail }

/-- The bus after `if d != 0: Sleep(d)` (R98): a delay of 0 makes no call. -/
def Bus.afterSleep (b : Bus) (d : Dur) : Bus :=
  if d = 0 then b else { b with history := b.history ++ [.sleep d] }

/-! ### What a part of an operation can do -/

/-- How a part of an operation ends: with a value, with an error raised (R139), or not at all, because a bus call it
made never returned (R175).  The state is the one at that point. -/
inductive Run (α : Type) where
  | done (v : α) (s : State)
  | raised (k : Kind) (s : State)
  | waiting (s : State)
  deriving Repr

/-- The next part of an operation runs only if the part before it ended with a value (R139). -/
def Run.andThen {α β : Type} (r : Run α) (f : α → State → Run β) : Run β :=
  match r with
  | .done v s => f v s
  | .raised k s => .raised k s
  | .waiting s => .waiting s

/-! ### Registers and slots -/

/-- `PHASE <- p` (R9, R14). -/
def State.enter (s : State) (p : Phase) : State := { s with phase := p }

/-- Puts argument words into the `ARG` slots, slot 0 first; the other slots hold nothing (R13). -/
def State.loadArgs (s : State) (args : Words) : State :=
  { s with arg := #v[args[0]?, args[1]?] }

/-- The argument words in the `ARG` slots, slot 0 first. -/
def State.argWords (s : State) : Words := s.arg.toList.filterMap id

/-- `RES[g] <- w` (R9). -/
def State.writeRes (s : State) (g : Nat) (w : Word) : State :=
  { s with res := s.res.setIfInBounds g (some w) }

/-- The response words in the `RES` slots, slot 0 first. -/
def State.resWords (s : State) : Words := s.res.toList.filterMap id

/-- The caller's read of `ARG[k]`: refused when the slot holds nothing (R13, R22). -/
def State.readArg (s : State) (k : Fin 2) : Except Refusal Word :=
  match s.arg[k] with
  | some w => .ok w
  | none => .error (.emptySlot k)

/-- The caller's read of `RES[k]`: refused when the slot holds nothing (R13, R22). -/
def State.readRes (s : State) (k : Fin 3) : Except Refusal Word :=
  match s.res[k] with
  | some w => .ok w
  | none => .error (.emptySlot k)

/-! ### The Checksum Engine on `ACC` -/

/-- `ACC <- CRC_INIT` (R71). -/
def State.crcLoad (s : State) : State := { s with acc := Config.crcInit }

/-- `ACC <- step(ACC, b)` (R72, R74). -/
def State.crcAbsorb (s : State) (b : Byte) : State := { s with acc := crcStep s.acc b }

/-- A whole computation: load, then every byte in order; the result is left in `ACC` (R71 to R75). -/
def State.crcRun (s : State) (bs : Bytes) : State := bs.foldl State.crcAbsorb s.crcLoad

/-- One more word group at the end of `TXBUF`, its checksum computed by the engine (R91, R95). -/
def State.appendGroup (s : State) (w : Word) : State :=
  let s := s.crcRun [hiByte w, loByte w]
  { s with txbuf := s.txbuf ++ [hiByte w, loByte w, s.acc] }

/-- `TXBUF` is built from the opcode and the words in the `ARG` slots (R95). -/
def State.buildFrame (s : State) (op : Word) : State :=
  s.argWords.foldl State.appendGroup { s with txbuf := opcodeBytes op }

/-! ### The collaborator calls -/

/-- How a part of an operation goes on after a bus call that became `r`, in the state with the call recorded (R148, R175). -/
def Run.ofReply {α : Type} (r : Reply α) (s : State) : Run α :=
  match r with
  | .returned a => .done a s
  | .neverReturns => .waiting s

/-- `MemWrite(ADDR, len(bs), bs)` (R9, R41, R145): one call, recorded as one event (R42). -/
def State.memWrite (s : State) (bs : Bytes) : Run WriteAnswer :=
  let r := s.bus.writeReply s.addr bs
  .ofReply r { s with bus := s.bus.afterWrite s.addr bs r }

/-- `MemRead(ADDR, n)` (R9, R41, R146): one call, recorded as one event (R42). -/
def State.memRead (s : State) (n : Nat) : Run ReadAnswer :=
  let r := s.bus.readReply s.addr n
  .ofReply r { s with bus := s.bus.afterRead s.addr n r }

/-- `if d != 0: Sleep(d)` (R98, R147); it cannot fail and returns nothing. -/
def State.sleep (s : State) (d : Dur) : State := { s with bus := s.bus.afterSleep d }

/-! ### Issuing an operation, returning from it, raising an error -/

/-- An operation begins (R14): PHASE leaves IDLE, the caller's argument words are in the `ARG` slots, the `RES` slots
hold nothing and there is no result yet. -/
def State.begin (s : State) (args : Words) : State :=
  { (s.loadArgs args).enter .validate with res := #v[none, none, none], result := none }

/-- An operation returns `r` to its caller: PHASE is IDLE again (R14), the slots hold nothing (R13, R22), and what the
transient registers hold is a free value (R17 to R19, log entry 8). -/
def State.retire (s : State) (r : Result Value) : State :=
  { s with
    phase := .idle
    acc := Config.staleAcc s.freeIndex
    txbuf := Config.staleTx s.freeIndex
    rxbuf := Config.staleRx s.freeIndex
    arg := #v[none, none]
    res := #v[none, none, none]
    result := some r
    freeIndex := s.freeIndex + 1 }

/-- Taking an error, `raise K` (R139): the operation ends at once with the result `err(K)` and no value; nothing is
saved and control goes to the immediate caller.  There is no return from an error (R142). -/
def State.takeError (s : State) (k : Kind) : State := s.retire (.err k)

/-- The state an operation leaves.  An operation whose bus call never returned is not given a result: the block stays in
its phase (R175). -/
def Run.finish (r : Run Value) : State :=
  match r with
  | .done v s => s.retire (.ok v)
  | .raised k s => s.takeError k
  | .waiting s => s

/-- One operation as one atomic transition (decision D1).  An operation issued while another is in progress has no
meaning and is refused (R150). -/
def operation (args : Words) (body : State → Run Value) (s : State) : Host.Outcome State Fault Refusal :=
  if s.phase = .idle then .next (body (s.begin args)).finish else .refused .overlappingOperation

/-! ### The paths of the Transport Framer -/

/-- The write path (R95). -/
def State.wrFrame (s : State) (op : Word) (args : Words) : Run Unit :=
  let s := ((s.loadArgs args).enter .build).buildFrame op
  ((s.enter .write).memWrite s.txbuf).andThen fun r s =>
    match r with
    | .fail => .raised .transportError s
    | .ok => .done () s

/-- One group of the read frame (R92): the checksum is recomputed by the engine and compared with the third byte. -/
def State.decGroup (s : State) (b0 b1 b2 : Byte) : Run Word :=
  let s := s.crcRun [b0, b1]
  if s.acc ≠ b2 then .raised .checksumError s else .done (wordOf b0 b1) s

/-- The groups of the read frame in order from number `g` on, each word into its `RES` slot; stops at the first bad
one (R98). -/
def State.verifyGroups (g : Nat) : Bytes → State → Run Unit
  | b0 :: b1 :: b2 :: rest, s =>
    match s.decGroup b0 b1 b2 with
    | .raised k s => .raised k s
    | .waiting s => .waiting s
    | .done w s => State.verifyGroups (g + 1) rest (s.writeRes g w)
  | _, s => .done () s

/-- The read path (R98, R100): the delay, then, unless no word is asked for, one read, the length test, and the groups. -/
def State.rdWords (s : State) (n : Nat) (d : Dur) : Run Words :=
  let s := (s.enter .delay).sleep d
  if n = 0 then .done [] s
  else
    ((s.enter .read).memRead (Config.groupBytes * n)).andThen fun r s =>
      match r with
      | .fail => .raised .transportError s
      | .bytes bs =>
        let s := { s with rxbuf := bs }
        if s.rxbuf.length ≠ Config.groupBytes * n then .raised .framingLengthError s
        else (State.verifyGroups 0 s.rxbuf (s.enter .verify)).andThen fun _ s => .done s.resWords s

/-- The template's first three steps (R110): the write path, then the read path. -/
def State.xfer (s : State) (op : Word) (args : Words) (n : Nat) (d : Dur) : Run Words :=
  (s.wrFrame op args).andThen fun _ s => s.rdWords n d

/-- `XFER` with the descriptor of a command (R111): opcode, word count and delay come from its row. -/
def State.commandXfer (s : State) (c : Command) (args : Words) : Run Words :=
  s.xfer c.opcode args c.nReads (c.delay s.delays)

/-- The last step of the template (R14, R110): the words become the command's result. -/
def Run.interpret (r : Run Words) (f : Words → Value) : Run Value :=
  r.andThen fun ws s => .done (f ws) (s.enter .interpret)

/-- SOFT_RESET's special case (R120, R141): a TransportError becomes success.  No other operation uses it. -/
def Run.swallowTransport (r : Run Words) : Run Words :=
  match r with
  | .raised .transportError s => .done [] s
  | r => r

end Sys2Proof.Machine
end

