-- ==== Sys2Proof/Machine/Commands.lean ====
section
/-! DEFINITION. The meanings of the nine commands of the command layer (42_commands.md R112 to R120).  No command
checks that another came before it (R122), and none but SOFT_RESET swallows an error (R141). -/

namespace Sys2Proof.Machine

/-- `IAQ_INIT` (R112). -/
def execIaqInit (s : State) : Host.Outcome State Fault Refusal :=
  operation [] (fun s => (s.commandXfer .iaqInit []).interpret asUnit) s

/-- `MEASURE_IAQ` (R113). -/
def execMeasureIaq (s : State) : Host.Outcome State Fault Refusal :=
  operation [] (fun s => (s.commandXfer .measureIaq []).interpret asReading) s

/-- `MEASURE_RAW` (R114). -/
def execMeasureRaw (s : State) : Host.Outcome State Fault Refusal :=
  operation [] (fun s => (s.commandXfer .measureRaw []).interpret asRawSignals) s

/-- `SELF_TEST` (R115). -/
def execSelfTest (s : State) : Host.Outcome State Fault Refusal :=
  operation [] (fun s => (s.commandXfer .selfTest []).interpret asVerdict) s

/-- `GET_BASELINE` (R116). -/
def execGetBaseline (s : State) : Host.Outcome State Fault Refusal :=
  operation [] (fun s => (s.commandXfer .getBaseline []).interpret asBaseline) s

/-- `SET_BASELINE eco2, tvoc` (R117, R125): the pair of two zeros is refused before any bus access; the words are
swapped to wire order before the write. -/
def execSetBaseline (eco2 tvoc : Word) (s : State) : Host.Outcome State Fault Refusal :=
  operation [eco2, tvoc] (fun s =>
    if eco2 = 0 ∧ tvoc = 0 then .raised .invalidArgumentError s
    else
      let wire := baselineSwap (eco2, tvoc)
      (s.commandXfer .setBaseline [wire.1, wire.2]).interpret asUnit) s

/-- `SET_HUMIDITY v` (R118, R124, R125): a value that is not positive is refused before it is encoded. -/
def execSetHumidity (v : Rat) (s : State) : Host.Outcome State Fault Refusal :=
  operation [] (fun s =>
    if v ≤ 0 then .raised .invalidArgumentError s
    else (s.commandXfer .setHumidity [humFix v]).interpret asUnit) s

/-- `GET_SERIAL` (R119). -/
def execGetSerial (s : State) : Host.Outcome State Fault Refusal :=
  operation [] (fun s => (s.commandXfer .getSerial []).interpret asSerial) s

/-- `SOFT_RESET` (R120): a transport failure is swallowed.  DESIGN CHOICE (log entry 1): after a swallowed failure PHASE
goes from WRITE to INTERPRET; neither R14 nor R120 names the phase, and no state shows it. -/
def execSoftReset (s : State) : Host.Outcome State Fault Refusal :=
  operation [] (fun s => (s.commandXfer .softReset []).swallowTransport.interpret asUnit) s

end Sys2Proof.Machine
end

