-- ==== Sys2Proof/Machine/Framer.lean ====
section
/-! DEFINITION. The meanings of the block's own operations: the Checksum Engine (40_crc.md), the Transport Framer
(41_framer.md) and the template XFER (42_commands.md R110). -/

namespace Sys2Proof.Machine

/-- `CRC8 bs` (R78). -/
def execCrc8 (bs : Bytes) (s : State) : Host.Outcome State Fault Refusal :=
  operation [] (fun s => .done (.byte (s.crcRun bs).acc) (s.crcRun bs)) s

/-- `ENC_WORD w` (R91).  DESIGN CHOICE (log entry 19): its operand counts as an argument word and stands in `ARG[0]` while
it runs; R13 does not name ENC_WORD among the readers of the slots, and no state shows it. -/
def execEncWord (w : Word) (s : State) : Host.Outcome State Fault Refusal :=
  operation [w] (fun s =>
    let s := s.crcRun [hiByte w, loByte w]
    .done (.group (hiByte w) (loByte w) s.acc) s) s

/-- `DEC_GROUP b0, b1, b2` (R92). -/
def execDecGroup (b0 b1 b2 : Byte) (s : State) : Host.Outcome State Fault Refusal :=
  operation [] (fun s => (s.decGroup b0 b1 b2).andThen fun w s => .done (.word w) s) s

/-- `WR_FRAME op, args` (R95); more than two argument words are refused at the port (R96).  DESIGN CHOICE (log entry 14):
the limit is tested before PHASE, so it is named also when another operation is in progress (R150, R170). -/
def execWrFrame (op : Word) (args : Words) (s : State) : Host.Outcome State Fault Refusal :=
  match Instr.argsMalformed args with
  | some m => .refused (.malformed m)
  | none => operation args (fun s => (s.wrFrame op args).andThen fun _ s => .done .unit s) s

/-- `RD_WORDS n, d` (R98); more than three words are refused at the port (R101).  DESIGN CHOICE (log entry 14): the limit
is tested before PHASE, as in WR_FRAME. -/
def execRdWords (n : Nat) (d : Dur) (s : State) : Host.Outcome State Fault Refusal :=
  match Instr.countMalformed n with
  | some m => .refused (.malformed m)
  | none => operation [] (fun s => (s.rdWords n d).andThen fun ws s => .done (.words ws) s) s

/-- `XFER op, args, n, d` (R110), with the port limits of R96 and R101.  DESIGN CHOICE (log entry 14): the limits are tested
before PHASE, as in WR_FRAME, and the argument count first. -/
def execXfer (op : Word) (args : Words) (n : Nat) (d : Dur) (s : State) : Host.Outcome State Fault Refusal :=
  match (Instr.argsMalformed args).or (Instr.countMalformed n) with
  | some m => .refused (.malformed m)
  | none => operation args (fun s => (s.xfer op args n d).andThen fun ws s => .done (.words ws) s) s

end Sys2Proof.Machine
end

