-- ==== Sys2Proof/Machine/Dispatch.lean ====
section
/-! DEFINITION. One arm per operation: which meaning it has. -/

namespace Sys2Proof.Machine

def exec (i : Instr) (s : State) : Host.Outcome State Fault Refusal :=
  match i with
  | .iaqInit => Sys2Proof.Machine.execIaqInit s
  | .measureIaq => Sys2Proof.Machine.execMeasureIaq s
  | .measureRaw => Sys2Proof.Machine.execMeasureRaw s
  | .selfTest => Sys2Proof.Machine.execSelfTest s
  | .getBaseline => Sys2Proof.Machine.execGetBaseline s
  | .setBaseline eco2 tvoc => Sys2Proof.Machine.execSetBaseline eco2 tvoc s
  | .setHumidity v => Sys2Proof.Machine.execSetHumidity v s
  | .getSerial => Sys2Proof.Machine.execGetSerial s
  | .softReset => Sys2Proof.Machine.execSoftReset s
  | .crc8 bs => Sys2Proof.Machine.execCrc8 bs s
  | .encWord w => Sys2Proof.Machine.execEncWord w s
  | .decGroup b0 b1 b2 => Sys2Proof.Machine.execDecGroup b0 b1 b2 s
  | .wrFrame op args => Sys2Proof.Machine.execWrFrame op args s
  | .rdWords n d => Sys2Proof.Machine.execRdWords n d s
  | .xfer op args n d => Sys2Proof.Machine.execXfer op args n d s

end Sys2Proof.Machine
end

