-- ==== Sys2Proof/Machine/Port.lean ====
section
/-! DEFINITION. The caller's side of the port: which operation is issued next.  The block has no program counter and
stores no program (10_state.md R14); the caller decides which operation comes next. -/

namespace Sys2Proof.Machine

/-- The operation of a request is taken from the port and run; a request that stands for none is refused (R58, R63,
R96, R101). -/
def issue (r : Request) (s : State) : Host.Outcome State Fault Refusal :=
  match decode r with
  | .ok i => exec i s
  | .error e => .refused (.undecodable e)

/-- The caller's next move.  With no request nothing happens (R138; that it is a step is DESIGN CHOICE, log entry 4).  While
an operation is in progress the caller is blocked in its call (R44, R148, R175) and nothing happens (DEDUCED, log entry
2). -/
def portStep (s : State) : Host.Outcome State Fault Refusal :=
  if s.phase = .idle then
    match s.requests with
    | [] => .next s
    | r :: rest => issue r { s with requests := rest }
  else .next s

/-- The state in which the caller's next request is the one of a table word: the request takes the first place among
the caller's requests, and no operation is in progress, so that the next step runs it (log entry 4). -/
def placeRequest (s : State) (nbits w : Nat) : State :=
  { s with phase := .idle, requests := Request.ofTableWord nbits w :: s.requests.tail }

end Sys2Proof.Machine
end

