-- ==== Sys2Proof/Machine/Step.lean ====
section
/-! DEFINITION. One step of the machine: the caller issues its next operation and the block runs it to its result
(92_eei_decisions.md D1). -/

namespace Sys2Proof.Machine

/-- One step (R44, D1). -/
def step (s : State) : Host.Outcome State Fault Refusal := portStep s

/-- `s` with the operation of a table word as the caller's next request (log entry 4). -/
def State.withFetchWord (s : State) (nbits w : Nat) : State := placeRequest s nbits w

end Sys2Proof.Machine
end

