-- ==== Sys2Proof/Machine/Wire.lean ====
section
/-! DEFINITION. How the far end of the bus reads a write frame (30_encoding.md R51, R52).  The block itself never reads
one; these functions serve the claims that a frame loses nothing. -/

namespace Sys2Proof.Machine

/-- The words of a sequence made of whole groups, each with its own valid checksum (R50); none otherwise. -/
def receiveGroups : Bytes → Option Words
  | [] => some []
  | b0 :: b1 :: b2 :: rest =>
    match decGroup b0 b1 b2 with
    | .ok w => (receiveGroups rest).map fun ws => w :: ws
    | .err _ => none
  | _ => none

/-- The opcode and argument words of a write frame (R51). -/
def receiveFrame : Bytes → Option (Word × Words)
  | hi :: lo :: rest => (receiveGroups rest).map fun ws => (wordOf hi lo, ws)
  | _ => none

/-- The command and argument words of a write frame: the opcode alone tells how many words there are (R52, R56). -/
def receiveCommand (bs : Bytes) : Option (Command × Words) :=
  match receiveFrame bs with
  | none => none
  | some (op, ws) =>
    match Command.ofOpcode op with
    | none => none
    | some c => if ws.length = c.nArgs then some (c, ws) else none

end Sys2Proof.Machine
end

