-- ==== Sys2Proof/Safety.lean ====
section
/-! DEFINITION. The terms claims about the machine are stated in: what an operation adds to the event history, what it
leaves unchanged, and the invariant of a run. -/

namespace Sys2Proof.Machine

/-- The operand slots that hold nothing (10_state.md R13, R22). -/
abbrev emptyArg : Vector (Option Word) 2 := #v[none, none]

/-- The result slots that hold nothing. -/
abbrev emptyRes : Vector (Option Word) 3 := #v[none, none, none]

/-- The event of `if d != 0: Sleep(d)` (R98): none for a delay of 0. -/
def sleepEvents (d : Dur) : List Event := if d = 0 then [] else [.sleep d]

end Sys2Proof.Machine

namespace Sys2Proof
open Machine

def Event.isWrite : Event → Bool
  | .write _ _ _ => true
  | .sleep _ => false
  | .read _ _ _ => false
  | .writePending _ _ => true
  | .readPending _ _ => false

def Event.isRead : Event → Bool
  | .write _ _ _ => false
  | .sleep _ => false
  | .read _ _ _ => true
  | .writePending _ _ => false
  | .readPending _ _ => true

/-- The phase in which a call that has not returned keeps the block (R175); none for a call that returned. -/
def Event.pendingIn : Event → Option Phase
  | .write _ _ _ => none
  | .sleep _ => none
  | .read _ _ _ => none
  | .writePending _ _ => some .write
  | .readPending _ _ => some .read

end Sys2Proof

namespace Sys2Proof.Machine

/-- The bus after the calls `es` were made: they stand at the end of its history in order, and the script's answers to
them are used up (R42, R45). -/
def Bus.play (b : Bus) (es : List Event) : Bus where
  handle := b.handle
  history := b.history ++ es
  writeReplies := b.writeReplies.drop (es.countP Event.isWrite)
  readReplies := b.readReplies.drop (es.countP Event.isRead)

/-- `t` is the state after an operation issued at `s` made the calls `es` and returned `r`: the whole FRAME of an
operation.  ADDR, the bus handle, the configuration and the caller's further requests are as before, the history grew
by `es` and nothing else, PHASE is IDLE and the slots hold nothing.  Only ACC, TXBUF, RXBUF and the model's counter of
free values are left open: the first three hold unspecified values between operations (R17 to R19). -/
structure Returned (s t : State) (es : List Event) (r : Result Value) : Prop where
  addr : t.addr = s.addr
  bus : t.bus = s.bus.play es
  delays : t.delays = s.delays
  phase : t.phase = .idle
  arg : t.arg = emptyArg
  res : t.res = emptyRes
  result : t.result = some r
  requests : t.requests = s.requests

/-- The operation `i` issued at `s` runs to its end: exec answers a next state, reached by the calls `es`, in which the
caller has the result `r`. -/
def Completes (i : Instr) (s : State) (es : List Event) (r : Result Value) : Prop :=
  ∃ t, exec i s = .next t ∧ Returned s t es r

/-- The state a part of an operation ends in, whichever way it ends. -/
def Run.state {α : Type} : Run α → State
  | .done _ s => s
  | .raised _ s => s
  | .waiting s => s

/-- `t` is the state of an operation issued at `s` whose bus call in phase `p` never returned (R175): the calls `es`, the
pending one last, were made and recorded (R42), there is no result, and ADDR, the bus handle, the configuration and the
caller's further requests are as before.  After a write path `frame` is the frame it built, which TXBUF holds (R18). -/
structure Blocked (s t : State) (es : List Event) (p : Phase) (frame : Option Bytes) : Prop where
  addr : t.addr = s.addr
  bus : t.bus = s.bus.play es
  delays : t.delays = s.delays
  phase : t.phase = p
  txbuf : ∀ bs, frame = some bs → t.txbuf = bs
  result : t.result = none
  requests : t.requests = s.requests

/-- The operation `i` issued at `s` waits in phase `p` for the last of the calls `es`, and a later step changes nothing. -/
def Waits (i : Instr) (s : State) (es : List Event) (p : Phase) (frame : Option Bytes) : Prop :=
  ∃ t, exec i s = .next t ∧ Blocked s t es p frame ∧ step t = .next t

/-- The operands of XFER (R110). -/
structure Transfer where
  opcode : Word
  args : Words
  count : Nat
  delay : Dur
  deriving DecidableEq, Repr

end Sys2Proof.Machine

namespace Sys2Proof
open Machine

/-- What an operation sends and how much it reads back, row by row of R56, with its arguments in wire order (R117, R118);
none for an operation that makes no write: CRC8, ENC_WORD, DEC_GROUP, RD_WORDS, and refused arguments (R125). -/
def Instr.transfer (d : Delays) : Instr → Option Transfer
  | .iaqInit => some ⟨0x2003, [], 0, d.iaqInit⟩
  | .measureIaq => some ⟨0x2008, [], 2, d.measureIaq⟩
  | .measureRaw => some ⟨0x2050, [], 2, d.measureRaw⟩
  | .selfTest => some ⟨0x2032, [], 1, d.selfTest⟩
  | .getBaseline => some ⟨0x2015, [], 2, d.getBaseline⟩
  | .setBaseline eco2 tvoc => if eco2 = 0 ∧ tvoc = 0 then none else some ⟨0x201E, [tvoc, eco2], 0, d.setBaseline⟩
  | .setHumidity v => if v ≤ 0 then none else some ⟨0x2061, [humFix v], 0, d.setHumidity⟩
  | .getSerial => some ⟨0x3682, [], 3, d.getSerial⟩
  | .softReset => some ⟨0x0006, [], 0, d.softReset⟩
  | .crc8 _ => none
  | .encWord _ => none
  | .decGroup _ _ _ => none
  | .wrFrame op args => some ⟨op, args, 0, 0⟩
  | .rdWords _ _ => none
  | .xfer op args n dur => some ⟨op, args, n, dur⟩

/-- An event of an instance at address `a` (R21, R37 to R41, R43): a write of one whole frame of at most two argument
words, or a read of one to three groups, each to `a` and returned or not, or a delay that is not zero. -/
def Event.Legal (a : Addr7) : Event → Prop
  | .write a' bs _ => a' = a ∧ ∃ op args, args.length ≤ Config.nArgsMax ∧ bs = writeFrame op args
  | .sleep d => d ≠ 0
  | .read a' n _ => a' = a ∧ ∃ k, 1 ≤ k ∧ k ≤ Config.nWordsMax ∧ n = Config.groupBytes * k
  | .writePending a' bs => a' = a ∧ ∃ op args, args.length ≤ Config.nArgsMax ∧ bs = writeFrame op args
  | .readPending a' n => a' = a ∧ ∃ k, 1 ≤ k ∧ k ≤ Config.nWordsMax ∧ n = Config.groupBytes * k

end Sys2Proof

namespace Sys2Proof.Machine

/-- What the bus's answer to a read of `n` words makes of it (R98, R39, R99): a failure is a TransportError; bytes in
any other number than 3n are a FramingLengthError; n whole groups, each with its own checksum, are their words; 3n
bytes that are not n such groups are a ChecksumError. -/
def ReadGives (n : Nat) : ReadAnswer → Result Words → Prop
  | .fail, r => r = .err .transportError
  | .bytes bs, r =>
    (bs.length ≠ 3 * n ∧ r = .err .framingLengthError)
      ∨ (∃ ws : Words, ws.length = n ∧ bs = ws.flatMap encGroup ∧ r = .ok ws)
      ∨ (bs.length = 3 * n ∧ (¬ ∃ ws : Words, bs = ws.flatMap encGroup) ∧ r = .err .checksumError)

/-- The words of a result as the caller of RD_WORDS or XFER gets them. -/
def Result.asWords : Result Words → Result Value
  | .ok ws => .ok (.words ws)
  | .err k => .err k

/-- The five commands that read (R133), each with its row of R56. -/
def readers : List (Instr × Command) :=
  [(.measureIaq, .measureIaq), (.measureRaw, .measureRaw), (.selfTest, .selfTest), (.getBaseline, .getBaseline),
    (.getSerial, .getSerial)]

/-- The block stands between two operations (R13, R14, R22). -/
def State.Between (s : State) : Prop :=
  s.phase = .idle ∧ s.arg = emptyArg ∧ s.res = emptyRes

/-- The block waits for a bus call that never returned (R175): that call is the last of the history, the block is in the
phase of the call, and there is no result. -/
def State.Hung (s : State) : Prop :=
  s.bus.history.getLast?.bind Event.pendingIn = some s.phase ∧ s.result = none

/-- Every call of `es` has returned (R148). -/
def Settled (es : List Event) : Prop := ∀ e ∈ es, e.pendingIn = none

/-- The invariant of a run: every event so far is legal for this instance; and the block either stands between two
operations, every call so far returned, or waits for a call that never returned, every call before it returned. -/
def State.Inv (s : State) : Prop :=
  (∀ e ∈ s.bus.history, e.Legal s.addr)
    ∧ ((s.Between ∧ Settled s.bus.history) ∨ (s.Hung ∧ Settled s.bus.history.dropLast))

/-- At most one write, then at most one delay, then at most one read, and nothing after a write unless it returned
success (R44, R110). -/
def RoundTrip (es : List Event) : Prop :=
  ∃ (w : Option (Addr7 × Bytes × Reply WriteAnswer)) (d : Option Dur) (r : Option (Addr7 × Nat × Reply ReadAnswer)),
    es = (w.map fun x => Event.ofWrite x.1 x.2.1 x.2.2).toList ++ (d.map Event.sleep).toList
        ++ (r.map fun x => Event.ofRead x.1 x.2.1 x.2.2).toList
      ∧ ∀ x, w = some x → x.2.2 ≠ .returned .ok → d = none ∧ r = none

end Sys2Proof.Machine

namespace Sys2Proof
open Machine

/-- The error kinds an operation can return, row by row of the summary table under R136.  RD_WORDS of no word makes no
read (R100, decision D5, log entry 11), so that it can meet none of the three that the table gives RD_WORDS. -/
def Instr.errorKinds : Instr → List Kind
  | .iaqInit => [.transportError]
  | .measureIaq => [.transportError, .framingLengthError, .checksumError]
  | .measureRaw => [.transportError, .framingLengthError, .checksumError]
  | .selfTest => [.transportError, .framingLengthError, .checksumError]
  | .getBaseline => [.transportError, .framingLengthError, .checksumError]
  | .setBaseline _ _ => [.transportError, .invalidArgumentError]
  | .setHumidity _ => [.transportError, .invalidArgumentError]
  | .getSerial => [.transportError, .framingLengthError, .checksumError]
  | .softReset => []
  | .crc8 _ => []
  | .encWord _ => []
  | .decGroup _ _ _ => [.checksumError]
  | .wrFrame _ _ => [.transportError]
  | .rdWords n _ => if n = 0 then [] else [.transportError, .framingLengthError, .checksumError]
  | .xfer _ _ n _ => if n = 0 then [.transportError] else [.transportError, .framingLengthError, .checksumError]

end Sys2Proof

namespace Sys2Proof.Machine

/-- Two states a caller cannot tell apart: they differ at most in ACC, TXBUF, RXBUF and the counter of free values. -/
structure SameToCaller (s t : State) : Prop where
  addr : t.addr = s.addr
  bus : t.bus = s.bus
  delays : t.delays = s.delays
  phase : t.phase = s.phase
  arg : t.arg = s.arg
  res : t.res = s.res
  result : t.result = s.result
  requests : t.requests = s.requests

/-- Two outcomes of a step a caller cannot tell apart. -/
def SameOutcome : Host.Outcome State Fault Refusal → Host.Outcome State Fault Refusal → Prop
  | .next s, .next t => SameToCaller s t
  | .fault a, .fault b => a = b
  | .refused a, .refused b => a = b
  | _, _ => False

/-- One instance as it stands between two operations; the caller's requests are the same, the past may differ. -/
structure SameInstance (s t : State) : Prop where
  addr : t.addr = s.addr
  bus : t.bus = s.bus
  delays : t.delays = s.delays
  idle : s.phase = .idle ∧ t.phase = .idle
  requests : t.requests = s.requests

end Sys2Proof.Machine
end

