-- ==== Sys2Proof/Certificates/Slice0/Obligations.lean ====
section
/-! DEFINITION. The statements about the machine, for the provers.  Each docstring says which rule of spec/ it follows.
Every claim about an operation carries the premise of R150 that no other is in progress: PHASE is IDLE. -/

open Sys2Proof Sys2Proof.Machine

/-! ### The Checksum Engine -/

/-- R76: the checksum of the empty sequence is the initial value 0xFF, and CRC8 returns it. -/
def Obligations.EmptySequenceGivesInitialValue : Prop :=
  crc8 [] = 0xFF ∧ ∀ s : State, s.phase = .idle → Completes (.crc8 []) s [] (.ok (.byte 0xFF))

/-- R73: one shift iteration, on the natural numbers of the rule's own notation. -/
def Obligations.ShiftIterationOnNumbers : Prop :=
  ∀ a : Byte,
    (shift1 a).toNat = (if a.getLsbD 7 then (a.toNat <<< 1) ^^^ 0x31 else a.toNat <<< 1) % 2 ^ 8

/-- R71, R72, R74, R75: the accumulator starts at 0xFF; each byte, in order, is XORed in and then shifted exactly eight
times; the result is the final accumulator, in the register ACC as in the pure function. -/
def Obligations.BytesAreAbsorbedInOrder : Prop :=
  (∀ (bs : Bytes) (b : Byte), crc8 (bs ++ [b]) = shift1^[8] (crc8 bs ^^^ b)) ∧ crc8 [] = 0xFF
    ∧ ∀ (s : State) (bs : Bytes), s.crcRun bs = { s with acc := crc8 bs }

/-- R78, R77, R163: CRC8 of any sequence completes from any state between operations, makes no collaborator call, raises
no error, and returns the checksum. -/
def Obligations.Crc8CompletesWithTheChecksum : Prop :=
  ∀ (s : State) (bs : Bytes), s.phase = .idle → Completes (.crc8 bs) s [] (.ok (.byte (crc8 bs)))

/-- R79: with a byte read as a polynomial over the field of two elements, a shift iteration is multiplication by x,
reduced by g = x^8 + x^5 + x^4 + 1 when the top bit was set. -/
def Obligations.ShiftIterationIsTimesXModG : Prop :=
  open Polynomial in
  let poly : Byte → (ZMod 2)[X] := fun a => ∑ i ∈ Finset.range 8, if a.getLsbD i then X ^ i else 0
  let g : (ZMod 2)[X] := X ^ 8 + X ^ 5 + X ^ 4 + 1
  ∀ a : Byte, poly (shift1 a) = X * poly a + (if a.getLsbD 7 then g else 0)

/-- R80: feeding the bits of a byte one at a time, bit 7 first, gives the same byte step. -/
def Obligations.BitSerialFormAgrees : Prop :=
  ∀ a b : Byte, crcBits a b = crcStep a b

/-- R81: the printed table is T, a byte step is one look-up at a ^ b, the fold of look-ups is the checksum of every
sequence, and T is a bijection. -/
def Obligations.TableFormAgrees : Prop :=
  crcTable.length = 256 ∧ (∀ d : Byte, crcTable[d.toNat]? = some (crcStep 0 d))
    ∧ (∀ a b : Byte, crcStep a b = crcStep 0 (a ^^^ b)) ∧ (∀ bs : Bytes, crcByTable bs = crc8 bs)
    ∧ Function.Bijective (fun d : Byte => crcStep 0 d)

/-- R82: the bit equations of the combinational form give T, and T is linear. -/
def Obligations.CombinationalFormAgrees : Prop :=
  ∀ a b : Byte, crcNet (a ^^^ b) = crcStep a b ∧ crcNet (a ^^^ b) = crcNet a ^^^ crcNet b

/-- R83: the checksum is affine: the sum of the checksums of two sequences of equal length is `lin` of their sum, and a
checksum is `lin` plus the checksum of as many zero bytes, with K(0) to K(4) as printed. -/
def Obligations.ChecksumIsAffine : Prop :=
  (∀ x y : Bytes, x.length = y.length → crc8 x ^^^ crc8 y = crcLin (List.zipWith (· ^^^ ·) x y))
    ∧ (∀ x : Bytes, crc8 x = crcLin x ^^^ crc8 (List.replicate x.length 0))
    ∧ [0, 1, 2, 3, 4].map (fun n => crc8 (List.replicate n 0)) = [0xFF, 0xAC, 0x81, 0x4B, 0xD7]

/-- R85: absorbing the checksum itself leaves 0x00; so a group passes the check exactly when its three bytes run through
the engine give 0x00. -/
def Obligations.ZeroResidue : Prop :=
  (∀ bs : Bytes, crc8 (bs ++ [crc8 bs]) = 0)
    ∧ ∀ b0 b1 b2 : Byte, decGroup b0 b1 b2 = .ok (wordOf b0 b1) ↔ crc8 [b0, b1, b2] = 0

/-! ### Groups and frames -/

/-- R91, R50, R30: ENC_WORD returns the high byte, the low byte and the checksum of the two, for every word, with no
event. -/
def Obligations.EncWordReturnsTheGroup : Prop :=
  ∀ (s : State) (w : Word), s.phase = .idle →
    Completes (.encWord w) s []
      (.ok (.group (BitVec.ofNat 8 (w.toNat / 256)) (BitVec.ofNat 8 (w.toNat % 256))
        (crc8 [BitVec.ofNat 8 (w.toNat / 256), BitVec.ofNat 8 (w.toNat % 256)])))

/-- R92, R31: DEC_GROUP compares all eight bits of the recomputed checksum with the third byte; on equality it returns
the word b0 * 256 + b1, else ChecksumError. -/
def Obligations.DecGroupChecksAndAssembles : Prop :=
  ∀ (s : State) (b0 b1 b2 : Byte), s.phase = .idle →
    (crc8 [b0, b1] = b2 →
      Completes (.decGroup b0 b1 b2) s [] (.ok (.word (BitVec.ofNat 16 (b0.toNat * 256 + b1.toNat)))))
    ∧ (crc8 [b0, b1] ≠ b2 → Completes (.decGroup b0 b1 b2) s [] (.err .checksumError))

/-- R93: encoding a word and then decoding the same group recovers the word, through the two operations; and a group
that decodes to a word is the group of that word. -/
def Obligations.WordRoundTrip : Prop :=
  (∀ (s s' t : State) (w : Word) (b0 b1 b2 : Byte), exec (.encWord w) s = .next t →
      t.result = some (.ok (.group b0 b1 b2)) → s'.phase = .idle → Completes (.decGroup b0 b1 b2) s' [] (.ok (.word w)))
    ∧ ∀ (s t : State) (w : Word) (b0 b1 b2 : Byte), exec (.decGroup b0 b1 b2) s = .next t →
      t.result = some (.ok (.word w)) → encGroup w = [b0, b1, b2]

/-- R94, R86: inverting any one, two or three bits of the group of any word makes DEC_GROUP raise ChecksumError; the
four-bit pattern 0x000131 goes undetected whatever the word, and yields another word. -/
def Obligations.UpToThreeBitErrorsAreDetected : Prop :=
  (∀ (w : Word) (ps : List (Fin 24)), ps.Nodup → 1 ≤ ps.length → ps.length ≤ 3 →
      decGroup (flipGroup w (errorPattern ps)).1 (flipGroup w (errorPattern ps)).2.1
        (flipGroup w (errorPattern ps)).2.2 = .err .checksumError)
    ∧ ∀ w : Word, ∃ w', w' ≠ w ∧
      decGroup (flipGroup w 0x000131).1 (flipGroup w 0x000131).2.1 (flipGroup w 0x000131).2.2 = .ok w'

/-- R51: the write formats W0, W1 and W2, byte by byte; the opcode bytes carry no checksum.  The order of the two opcode
bytes is decision D4 (R32). -/
def Obligations.WriteFormats : Prop :=
  ∀ op a0 a1 : Word,
    let hi : Word → Byte := fun w => BitVec.ofNat 8 (w.toNat / 256)
    let lo : Word → Byte := fun w => BitVec.ofNat 8 (w.toNat % 256)
    writeFrame op [] = [hi op, lo op]
      ∧ writeFrame op [a0] = [hi op, lo op, hi a0, lo a0, crc8 [hi a0, lo a0]]
      ∧ writeFrame op [a0, a1]
        = [hi op, lo op, hi a0, lo a0, crc8 [hi a0, lo a0], hi a1, lo a1, crc8 [hi a1, lo a1]]

/-- R38: a write frame with n argument words has 2 + 3n bytes, the opcode at indices 0 and 1 and the group of argument
k at indices 2 + 3k to 4 + 3k. -/
def Obligations.WriteFrameLayout : Prop :=
  ∀ (op : Word) (args : Words),
    (writeFrame op args).length = 2 + 3 * args.length ∧ (writeFrame op args).take 2 = opcodeBytes op
      ∧ ∀ (k : Nat) (h : k < args.length), ((writeFrame op args).drop (2 + 3 * k)).take 3 = encGroup args[k]

/-- R51, R52, R56: a receiver of a write frame gets back exactly the opcode and the argument words, for every opcode and
any number of words, so the frame drops no bit of them; and from the frame of a command of the table, the opcode
alone tells which command it is and how many words follow. -/
def Obligations.WriteFrameReadsBack : Prop :=
  (∀ (op : Word) (args : Words), receiveFrame (writeFrame op args) = some (op, args))
    ∧ ∀ (c : Command) (args : Words), args.length = c.nArgs →
      receiveCommand (writeFrame c.opcode args) = some (c, args)

/-! ### WR_FRAME, RD_WORDS, XFER -/

/-- R95, R41: WR_FRAME with up to two words makes exactly one write of the whole frame to ADDR, whatever the opcode, and
returns success or TransportError as the bus reports. -/
def Obligations.WrFrameMakesOneWrite : Prop :=
  ∀ (s : State) (op : Word) (args : Words), s.phase = .idle → args.length ≤ 2 →
    (s.bus.writeReply s.addr (writeFrame op args) = .returned .ok →
      Completes (.wrFrame op args) s [.write s.addr (writeFrame op args) .ok] (.ok .unit))
    ∧ (s.bus.writeReply s.addr (writeFrame op args) = .returned .fail →
      Completes (.wrFrame op args) s [.write s.addr (writeFrame op args) .fail] (.err .transportError))

/-- R96, R101: a request with more than two argument words or more than three response words is refused, not truncated,
by the operation and at the port (decision D11).  Two orders are the model's choice and not the spec's (log entry 14): of
an XFER with both counts too large the argument count is named, and the limit is named also while another operation is
in progress. -/
def Obligations.PortRefusesTooManyWords : Prop :=
  (∀ (s : State) (op : Word) (args : Words) (n : Nat) (d : Dur), 2 < args.length →
      exec (.wrFrame op args) s = .refused (.malformed .tooManyArguments)
        ∧ exec (.xfer op args n d) s = .refused (.malformed .tooManyArguments)
        ∧ issue (encode (.wrFrame op args)) s = .refused (.undecodable (.malformed .tooManyArguments))
        ∧ issue (encode (.xfer op args n d)) s = .refused (.undecodable (.malformed .tooManyArguments)))
    ∧ ∀ (s : State) (op : Word) (args : Words) (n : Nat) (d : Dur), 3 < n → args.length ≤ 2 →
      exec (.rdWords n d) s = .refused (.malformed .tooManyWords)
        ∧ exec (.xfer op args n d) s = .refused (.malformed .tooManyWords)
        ∧ issue (encode (.rdWords n d)) s = .refused (.undecodable (.malformed .tooManyWords))
        ∧ issue (encode (.xfer op args n d)) s = .refused (.undecodable (.malformed .tooManyWords))

/-- R98, R37, R99: RD_WORDS of one to three words takes the delay if it is not zero, makes exactly one read of 3n bytes
at ADDR, and returns what the answer makes of it: every word verified, or one error. -/
def Obligations.RdWordsVerifiesTheRead : Prop :=
  ∀ (s : State) (n : Nat) (d : Dur) (a : ReadAnswer), s.phase = .idle → 1 ≤ n → n ≤ 3 →
    (s.bus.play (sleepEvents d)).readReply s.addr (3 * n) = .returned a →
    ∃ r, ReadGives n a r ∧ Completes (.rdWords n d) s (sleepEvents d ++ [.read s.addr (3 * n) a]) r.asWords

/-- R100 (decision D5): RD_WORDS of no word takes the delay if it is not zero, makes no read, and returns no words. -/
def Obligations.RdWordsOfNoneTakesTheDelayOnly : Prop :=
  ∀ (s : State) (d : Dur), s.phase = .idle →
    Completes (.rdWords 0 d) s (sleepEvents d) (.ok (.words [])) ∧ Completes (.rdWords 0 0) s [] (.ok (.words []))

/-- R39: a returned read of any other length than the requested 3n, shorter or longer, ends the operation with
FramingLengthError and no word, even when the bytes form whole valid groups. -/
def Obligations.LengthMismatchDecodesNothing : Prop :=
  ∀ (s : State) (n : Nat) (d : Dur) (bs : Bytes), s.phase = .idle → 1 ≤ n → n ≤ 3 →
    (s.bus.play (sleepEvents d)).readReply s.addr (3 * n) = .returned (.bytes bs) → bs.length ≠ 3 * n →
    Completes (.rdWords n d) s (sleepEvents d ++ [.read s.addr (3 * n) (.bytes bs)]) (.err .framingLengthError)

/-- R99: whatever RD_WORDS returns is either exactly n words, of which the n groups just read are the encodings, or an
error and no word, and then no RES slot may be read. -/
def Obligations.RdWordsIsAllOrNothing : Prop :=
  ∀ (s t : State) (n : Nat) (d : Dur) (r : Result Value), exec (.rdWords n d) s = .next t → t.result = some r →
    (∃ ws : Words, r = .ok (.words ws) ∧ ws.length = n
        ∧ (n ≠ 0 → t.bus.history.getLast? = some (.read s.addr (3 * n) (.bytes (ws.flatMap encGroup)))))
      ∨ ∃ k, r = .err k ∧ ∀ j, t.readRes j = .error (.emptySlot j)

/-- R110, R137, R139 (decisions D5 and D21): XFER is the write path and then the read path. After a failed write
nothing more happens; after a good one come the delay if it is not zero and, if a word is asked for, the one read,
whose answer decides the result. -/
def Obligations.XferWritesThenReads : Prop :=
  ∀ (s : State) (op : Word) (args : Words) (n : Nat) (d : Dur), s.phase = .idle → args.length ≤ 2 → n ≤ 3 →
    (s.bus.writeReply s.addr (writeFrame op args) = .returned .fail →
      Completes (.xfer op args n d) s [.write s.addr (writeFrame op args) .fail] (.err .transportError))
    ∧ (s.bus.writeReply s.addr (writeFrame op args) = .returned .ok → n = 0 →
      Completes (.xfer op args n d) s (.write s.addr (writeFrame op args) .ok :: sleepEvents d) (.ok (.words [])))
    ∧ ∀ a : ReadAnswer, s.bus.writeReply s.addr (writeFrame op args) = .returned .ok → n ≠ 0 →
      (s.bus.play (.write s.addr (writeFrame op args) .ok :: sleepEvents d)).readReply s.addr (3 * n) = .returned a →
      ∃ r, ReadGives n a r ∧ Completes (.xfer op args n d) s
        (.write s.addr (writeFrame op args) .ok :: (sleepEvents d ++ [.read s.addr (3 * n) a])) r.asWords

/-- R14, R137: the phase an operation of the template is in when it ends or stops, by its result and by what caused it: a
write that failed or never returns in WRITE, a read that failed or never returns or has a wrong length in READ, a read of
the right length in VERIFY, whether every checksum is right or not.  Success in DELAY, for no response word, is not
in R14's table: it comes from the pseudocode of R98 and from R100 (decision D5, log entry 11). -/
def Obligations.ErrorsArisePhaseByPhase : Prop :=
  ∀ (s : State) (op : Word) (args : Words) (n : Nat) (d : Dur),
    (match s.xfer op args n d with
    | .done _ t => (n = 0 ∧ t.phase = .delay) ∨ (n ≠ 0 ∧ t.phase = .verify)
    | .raised .transportError t => t.phase = .write ∨ (n ≠ 0 ∧ t.phase = .read)
    | .raised .framingLengthError t => n ≠ 0 ∧ t.phase = .read
    | .raised .checksumError t => n ≠ 0 ∧ t.phase = .verify
    | .raised .invalidArgumentError _ => False
    | .waiting t => t.phase = .write ∨ (n ≠ 0 ∧ t.phase = .read))
    ∧ (args.length ≤ 2 →
      let frame := writeFrame op args
      let before := Event.write s.addr frame .ok :: sleepEvents d
      let written := s.bus.writeReply s.addr frame
      let answer := (s.bus.play before).readReply s.addr (3 * n)
      let ended := (s.xfer op args n d).state.phase
      (written = .returned .fail ∨ written = .neverReturns → ended = .write)
        ∧ (written = .returned .ok → n = 0 → ended = .delay)
        ∧ (written = .returned .ok → n ≠ 0 → answer = .returned .fail ∨ answer = .neverReturns → ended = .read)
        ∧ ∀ bs : Bytes, written = .returned .ok → n ≠ 0 → answer = .returned (.bytes bs) →
          (bs.length ≠ 3 * n → ended = .read) ∧ (bs.length = 3 * n → ended = .verify))

/-! ### The commands

Where a frame stands in full, the order of its two opcode bytes is the spec's decision D4 (R32, log entry 10); that a
command of no response words makes no read is its decision D5 (R100, log entry 11), and that nothing follows a failed
write its decision D21 (R110, log entry 12).  The statements of the commands have basis 'derived' for that reason. -/

/-- R112 (decisions D4, D5, D21): IAQ_INIT writes 20 03, takes its delay, makes no read and returns no value; a failed
write is a TransportError. -/
def Obligations.IaqInitWritesAndWaits : Prop :=
  ∀ s : State, s.phase = .idle →
    (s.bus.writeReply s.addr [0x20, 0x03] = .returned .ok →
      Completes .iaqInit s (.write s.addr [0x20, 0x03] .ok :: sleepEvents s.delays.iaqInit) (.ok .unit))
    ∧ (s.bus.writeReply s.addr [0x20, 0x03] = .returned .fail →
      Completes .iaqInit s [.write s.addr [0x20, 0x03] .fail] (.err .transportError))

/-- R113 (decision D4): MEASURE_IAQ returns the two words read as (eCO2, TVOC), unscaled, every value as it is. -/
def Obligations.MeasureIaqReturnsTheReading : Prop :=
  ∀ (s : State) (w0 w1 : Word), s.phase = .idle → s.bus.writeReply s.addr [0x20, 0x08] = .returned .ok →
    (s.bus.play (.write s.addr [0x20, 0x08] .ok :: sleepEvents s.delays.measureIaq)).readReply s.addr 6
      = .returned (.bytes (encGroup w0 ++ encGroup w1)) →
    Completes .measureIaq s
      (.write s.addr [0x20, 0x08] .ok ::
        (sleepEvents s.delays.measureIaq ++ [.read s.addr 6 (.bytes (encGroup w0 ++ encGroup w1))]))
      (.ok (.reading w0 w1))

/-- R114 (decision D4): MEASURE_RAW returns the two words read as (raw_h2, raw_ethanol). -/
def Obligations.MeasureRawReturnsTheSignals : Prop :=
  ∀ (s : State) (w0 w1 : Word), s.phase = .idle → s.bus.writeReply s.addr [0x20, 0x50] = .returned .ok →
    (s.bus.play (.write s.addr [0x20, 0x50] .ok :: sleepEvents s.delays.measureRaw)).readReply s.addr 6
      = .returned (.bytes (encGroup w0 ++ encGroup w1)) →
    Completes .measureRaw s
      (.write s.addr [0x20, 0x50] .ok ::
        (sleepEvents s.delays.measureRaw ++ [.read s.addr 6 (.bytes (encGroup w0 ++ encGroup w1))]))
      (.ok (.rawSignals w0 w1))

/-- R115 (decision D4): SELF_TEST returns true when the word read is 0xD400 and false, with no error, when it is any
other. -/
def Obligations.SelfTestReturnsTheVerdict : Prop :=
  ∀ (s : State) (w : Word), s.phase = .idle → s.bus.writeReply s.addr [0x20, 0x32] = .returned .ok →
    (s.bus.play (.write s.addr [0x20, 0x32] .ok :: sleepEvents s.delays.selfTest)).readReply s.addr 3
      = .returned (.bytes (encGroup w)) →
    (w = 0xD400 → Completes .selfTest s
      (.write s.addr [0x20, 0x32] .ok :: (sleepEvents s.delays.selfTest ++ [.read s.addr 3 (.bytes (encGroup w))]))
      (.ok (.verdict true)))
    ∧ (w ≠ 0xD400 → Completes .selfTest s
      (.write s.addr [0x20, 0x32] .ok :: (sleepEvents s.delays.selfTest ++ [.read s.addr 3 (.bytes (encGroup w))]))
      (.ok (.verdict false)))

/-- R116 (decision D4): GET_BASELINE returns the words read, first TVOC and then eCO2, in logical order (eCO2, TVOC). -/
def Obligations.GetBaselineSwapsOnRead : Prop :=
  ∀ (s : State) (eco2 tvoc : Word), s.phase = .idle → s.bus.writeReply s.addr [0x20, 0x15] = .returned .ok →
    (s.bus.play (.write s.addr [0x20, 0x15] .ok :: sleepEvents s.delays.getBaseline)).readReply s.addr 6
      = .returned (.bytes (encGroup tvoc ++ encGroup eco2)) →
    Completes .getBaseline s
      (.write s.addr [0x20, 0x15] .ok ::
        (sleepEvents s.delays.getBaseline ++ [.read s.addr 6 (.bytes (encGroup tvoc ++ encGroup eco2))]))
      (.ok (.baseline eco2 tvoc))

/-- R117 (decisions D4, D5, D21): SET_BASELINE with not both words zero writes 20 1E, the TVOC group, then the eCO2
group, takes its delay, and makes no read; a failed write is a TransportError. -/
def Obligations.SetBaselineSwapsOnWrite : Prop :=
  ∀ (s : State) (eco2 tvoc : Word), s.phase = .idle → ¬ (eco2 = 0 ∧ tvoc = 0) →
    (s.bus.writeReply s.addr ([0x20, 0x1E] ++ encGroup tvoc ++ encGroup eco2) = .returned .ok →
      Completes (.setBaseline eco2 tvoc) s
        (.write s.addr ([0x20, 0x1E] ++ encGroup tvoc ++ encGroup eco2) .ok :: sleepEvents s.delays.setBaseline)
        (.ok .unit))
    ∧ (s.bus.writeReply s.addr ([0x20, 0x1E] ++ encGroup tvoc ++ encGroup eco2) = .returned .fail →
      Completes (.setBaseline eco2 tvoc) s
        [.write s.addr ([0x20, 0x1E] ++ encGroup tvoc ++ encGroup eco2) .fail] (.err .transportError))

/-- R118, R124 (decisions D4, D5, D21): SET_HUMIDITY of a positive value writes 20 61 and the group of the encoded
value, takes its delay, and makes no read; a failed write is a TransportError. -/
def Obligations.SetHumidityWritesTheFixedPoint : Prop :=
  ∀ (s : State) (v : Rat), s.phase = .idle → 0 < v →
    (s.bus.writeReply s.addr ([0x20, 0x61] ++ encGroup (humFix v)) = .returned .ok →
      Completes (.setHumidity v) s
        (.write s.addr ([0x20, 0x61] ++ encGroup (humFix v)) .ok :: sleepEvents s.delays.setHumidity) (.ok .unit))
    ∧ (s.bus.writeReply s.addr ([0x20, 0x61] ++ encGroup (humFix v)) = .returned .fail →
      Completes (.setHumidity v) s
        [.write s.addr ([0x20, 0x61] ++ encGroup (humFix v)) .fail] (.err .transportError))

/-- R124: the encoded humidity is a nearest integer to 256 v, masked to 16 bits, with 0 replaced by 1 after the mask
(decision D14).  On a tie the statement leaves both neighbours open, as HUM_ROUND_TIES does. -/
def Obligations.HumidityIsNearestFixedPoint : Prop :=
  ∀ v : Rat, 0 < v → ∃ r : Int, |v * 256 - r| ≤ 1 / 2
    ∧ ((humFix v).toNat : Int) = if r % 65536 = 0 then 1 else r % 65536

/-- R125, R135: the pair of two zeros and a value that is not positive end in InvalidArgumentError, with no collaborator
call at all; and nothing else ends in InvalidArgumentError. -/
def Obligations.InvalidArgumentsNeverReachTheBus : Prop :=
  (∀ s : State, s.phase = .idle →
    Completes (.setBaseline 0 0) s [] (.err .invalidArgumentError)
      ∧ ∀ v : Rat, v ≤ 0 → Completes (.setHumidity v) s [] (.err .invalidArgumentError))
    ∧ ∀ (i : Instr) (s t : State), exec i s = .next t → t.result = some (.err .invalidArgumentError) →
      i = .setBaseline 0 0 ∨ ∃ v : Rat, v ≤ 0 ∧ i = .setHumidity v

/-- R119, R33 (decision D4): GET_SERIAL returns the 48-bit number word0 * 2^32 + word1 * 2^16 + word2. -/
def Obligations.GetSerialAssemblesBigEndian : Prop :=
  ∀ (s : State) (w0 w1 w2 : Word), s.phase = .idle → s.bus.writeReply s.addr [0x36, 0x82] = .returned .ok →
    (s.bus.play (.write s.addr [0x36, 0x82] .ok :: sleepEvents s.delays.getSerial)).readReply s.addr 9
      = .returned (.bytes (encGroup w0 ++ encGroup w1 ++ encGroup w2)) →
    Completes .getSerial s
      (.write s.addr [0x36, 0x82] .ok ::
        (sleepEvents s.delays.getSerial ++ [.read s.addr 9 (.bytes (encGroup w0 ++ encGroup w1 ++ encGroup w2))]))
      (.ok (.serial (BitVec.ofNat 48 (w0.toNat * 2 ^ 32 + w1.toNat * 2 ^ 16 + w2.toNat))))

/-- R120, R141 (decisions D4, D5, D21): SOFT_RESET makes the one write of 00 06 to ADDR and returns success whether
the bus reports success or failure; the delay of its row follows a write that succeeded. -/
def Obligations.SoftResetSwallowsTransportErrors : Prop :=
  ∀ s : State, s.phase = .idle →
    (s.bus.writeReply s.addr [0x00, 0x06] = .returned .ok →
      Completes .softReset s (.write s.addr [0x00, 0x06] .ok :: sleepEvents s.delays.softReset) (.ok .unit))
    ∧ (s.bus.writeReply s.addr [0x00, 0x06] = .returned .fail →
      Completes .softReset s [.write s.addr [0x00, 0x06] .fail] (.ok .unit))

/-- R132 to R134, R137: each of the five reading commands relays every error of XFER unchanged, the first cause first: a
failed write, a failed read, a wrong length, a group with a wrong checksum. -/
def Obligations.ReadingCommandsRelayErrors : Prop :=
  ∀ (i : Instr) (c : Command) (s : State), (i, c) ∈ readers → s.phase = .idle →
    let frame := opcodeBytes c.opcode
    let before := Event.write s.addr frame .ok :: sleepEvents (c.delay s.delays)
    (s.bus.writeReply s.addr frame = .returned .fail →
      Completes i s [.write s.addr frame .fail] (.err .transportError))
    ∧ (s.bus.writeReply s.addr frame = .returned .ok →
      ∀ a : ReadAnswer, (s.bus.play before).readReply s.addr (3 * c.nReads) = .returned a →
        (a = .fail → Completes i s (before ++ [.read s.addr (3 * c.nReads) a]) (.err .transportError))
        ∧ ∀ bs : Bytes, a = .bytes bs →
          (bs.length ≠ 3 * c.nReads →
            Completes i s (before ++ [.read s.addr (3 * c.nReads) a]) (.err .framingLengthError))
          ∧ (bs.length = 3 * c.nReads → (¬ ∃ ws : Words, bs = ws.flatMap encGroup) →
            Completes i s (before ++ [.read s.addr (3 * c.nReads) a]) (.err .checksumError)))

/-- R121: the order conversion is its own inverse: when the chip answers GET_BASELINE with the six bytes that a
SET_BASELINE put after its opcode, the caller reads back the pair it set. -/
def Obligations.BaselineOrderRoundTrips : Prop :=
  ∀ (s t s' : State) (eco2 tvoc : Word) (frame : Bytes), exec (.setBaseline eco2 tvoc) s = .next t →
    t.bus.history = s.bus.history ++ (.write s.addr frame .ok :: sleepEvents s.delays.setBaseline) →
    s'.phase = .idle → s'.bus.writeReply s'.addr [0x20, 0x15] = .returned .ok →
    (s'.bus.play (.write s'.addr [0x20, 0x15] .ok :: sleepEvents s'.delays.getBaseline)).readReply s'.addr 6
      = .returned (.bytes (frame.drop 2)) →
    ∃ t', exec .getBaseline s' = .next t' ∧ t'.result = some (.ok (.baseline eco2 tvoc))

/-! ### Errors -/

/-- R132 to R136: an operation ends in error only with a kind that its row of the summary table allows; in particular
only SET_BASELINE and SET_HUMIDITY raise InvalidArgumentError, and no error reaches the caller of SOFT_RESET.  That
RD_WORDS of no word raises none is not in the table: it rests on R100 (decision D5, log entry 11). -/
def Obligations.ErrorKindsAreThoseOfTheTable : Prop :=
  ∀ (i : Instr) (s t : State) (k : Kind), exec i s = .next t → t.result = some (.err k) → k ∈ i.errorKinds

/-- R139, R140, R175: an operation issued between two others either returns a result and leaves the block between two
operations again, after an error exactly as after a success, or waits, with no result and in the phase of that call, for
a bus call that never returned and stands last in the history. -/
def Obligations.OperationsReturnOrHang : Prop :=
  ∀ (i : Instr) (s t : State), s.phase = .idle → exec i s = .next t →
    (t.Between ∧ ∃ r, t.result = some r) ∨ t.Hung

/-- R144, R122: every operation the port takes can be issued at any time between two operations: exec answers a next
state, never a fault or a refusal. -/
def Obligations.EveryOperationIsAlwaysAvailable : Prop :=
  ∀ (i : Instr) (s : State), i.WellFormed → s.phase = .idle → ∃ t, exec i s = .next t

/-- R175, R18: a bus call that never returns leaves the operation with no result, SOFT_RESET included.  Each of the nine
commands (with arguments that are not refused), WR_FRAME and XFER waits in WRITE when its write never returns, and in
READ, with the write and the delay behind it, when its read never returns; TXBUF holds the frame, built in full before
the write.  RD_WORDS waits in READ when its read never returns.  The pending call is the last event of the history, with
its arguments and no outcome (R42; the form of that event is log entry 5).  Every later step leaves the block so, which
comes from log entry 2; the order of the calls in the template from R110. -/
def Obligations.HungCallGivesNoResult : Prop :=
  (∀ (i : Instr) (s : State) (x : Transfer), i.WellFormed → s.phase = .idle → i.transfer s.delays = some x →
      let frame := writeFrame x.opcode x.args
      let before := Event.write s.addr frame .ok :: sleepEvents x.delay
      (s.bus.writeReply s.addr frame = .neverReturns → Waits i s [.writePending s.addr frame] .write (some frame))
      ∧ (s.bus.writeReply s.addr frame = .returned .ok → x.count ≠ 0 →
        (s.bus.play before).readReply s.addr (3 * x.count) = .neverReturns →
        Waits i s (before ++ [.readPending s.addr (3 * x.count)]) .read (some frame)))
    ∧ ∀ (s : State) (n : Nat) (d : Dur), s.phase = .idle → 1 ≤ n → n ≤ 3 →
      (s.bus.play (sleepEvents d)).readReply s.addr (3 * n) = .neverReturns →
      Waits (.rdWords n d) s (sleepEvents d ++ [.readPending s.addr (3 * n)]) .read none

/-- R150 (decision D22): an operation issued while another is in progress has no meaning and is refused. -/
def Obligations.OverlappingOperationsAreRefused : Prop :=
  ∀ (i : Instr) (s : State), i.WellFormed → s.phase ≠ .idle → exec i s = .refused .overlappingOperation

/-- R131 (decision D6): STATUS is 0 for a completed operation and 1 to 4 for the four error kinds in the order of
R130. -/
def Obligations.StatusCodes : Prop :=
  ∀ s : State, (s.result = none → s.status = none)
    ∧ (∀ v, s.result = some (.ok v) → s.status = some 0)
    ∧ (s.result = some (.err .transportError) → s.status = some 1)
    ∧ (s.result = some (.err .framingLengthError) → s.status = some 2)
    ∧ (s.result = some (.err .checksumError) → s.status = some 3)
    ∧ (s.result = some (.err .invalidArgumentError) → s.status = some 4)

/-! ### The port and the step -/

/-- D1, R44: when no operation is in progress and the caller's next request decodes to an operation, the step is that
operation at the state with the request taken from the port. -/
def Obligations.StepRunsTheDecodedOperation : Prop :=
  ∀ (s : State) (r : Request) (rest : List Request) (i : Instr), s.phase = .idle → s.requests = r :: rest →
    decode r = .ok i → step s = exec i { s with requests := rest }

/-- With no request, or while an operation is in progress, a step answers the same state.  No rule of the spec speaks of a
step: the first is the model's choice (log entry 4, DESIGN CHOICE), in keeping with R138; the second is deduced from R148
and R175 (log entry 2, DEDUCED). -/
def Obligations.NothingHappensBetweenOperations : Prop :=
  ∀ s : State, s.phase ≠ .idle ∨ s.requests = [] → step s = .next s

/-- R62, R63: a select code from 0x6 to 0xF selects no operation, whatever the operands: it is rejected by name and the
step refuses it.  That the code is named before wrong operands is the model's choice (log entry 16). -/
def Obligations.ReservedSelectsAreRefused : Prop :=
  ∀ (sel : BitVec 4) (o : Operands), 6 ≤ sel.toNat → decode ⟨.block sel, o⟩ = .error (.reservedSelect sel)
    ∧ ∀ (s : State) (rest : List Request), s.phase = .idle → s.requests = ⟨.block sel, o⟩ :: rest →
      step s = .refused (.undecodable (.reservedSelect sel))

/-- R56, R58 (decision D24): a 16-bit opcode selects a command exactly when it is one of the nine of the table, on all
16 bits; any other is rejected by name whatever the operands, and the step refuses it.  That the opcode is named before
wrong operands is the model's choice (log entry 16). -/
def Obligations.OnlyTheNineOpcodesAreCommands : Prop :=
  ∀ op : Word,
    let nine : List Word := [0x2003, 0x2008, 0x2050, 0x2032, 0x2015, 0x201E, 0x2061, 0x3682, 0x0006]
    ((∃ o i, decode ⟨.command op, o⟩ = .ok i) ↔ op ∈ nine)
      ∧ (op ∉ nine → ∀ o : Operands, decode ⟨.command op, o⟩ = .error (.unknownOpcode op)
        ∧ ∀ (s : State) (rest : List Request), s.phase = .idle → s.requests = ⟨.command op, o⟩ :: rest →
          step s = .refused (.undecodable (.unknownOpcode op)))

/-- Some words of the opcode table and the operations they stand for.  The codes are those of R56 and R62; that a table
word stands for operands of zero, and that a select code is a word of 8 bits, is the model's choice (log entry 3). -/
def Obligations.TableWordsDecode : Prop :=
  decodeTableWord 16 0x2008 = some .measureIaq ∧ decodeTableWord 16 0x0006 = some .softReset
    ∧ decodeTableWord 16 0x201E = some (.setBaseline 0 0) ∧ decodeTableWord 8 0x0 = some (.crc8 [])
    ∧ decodeTableWord 8 0x4 = some (.rdWords 0 0) ∧ decodeTableWord 8 0x6 = none

/-- R56, R61, R62: decoding an encoded well-formed operation gives it back, with every operand, and a request that
decodes is the encoding of a well-formed operation: one request per operation. -/
def Obligations.DecodeAndEncodeAgree : Prop :=
  (∀ i : Instr, i.WellFormed → decode (encode i) = .ok i)
    ∧ ∀ (r : Request) (i : Instr), decode r = .ok i → encode i = r ∧ i.WellFormed

/-- R22, R160, R161, R11: construction gives the address given, or 0x58, an empty history, no operation in progress and
empty slots, on whichever bus; an address above 127 is refused; the reset state is the one constructed with no address
on the bus numbered 0 (log entry 9). -/
def Obligations.ConstructionIsTheReset : Prop :=
  (∀ (h : Nat) (a : Option Nat) (s : State), State.construct h a = .next s →
      s.addr.toNat = a.getD 0x58 ∧ s.bus.handle = h ∧ s.bus.history = [] ∧ s.Between ∧ s.delays = Delays.nominal)
    ∧ (∀ h a : Nat, a ≤ 127 → ∃ s, State.construct h (some a) = .next s)
    ∧ (∀ h a : Nat, 127 < a → State.construct h (some a) = .refused (.addressOutOfRange a))
    ∧ (∀ h : Nat, State.construct h none = .next (State.built h 0x58)) ∧ State.construct 0 none = .next State.reset

/-- R13, R22: between two operations every slot holds nothing, so that every read of one is refused. -/
def Obligations.SlotsHoldNothingBetweenOperations : Prop :=
  ∀ (i : Instr) (s t : State), exec i s = .next t → t.phase = .idle →
    (∀ k, t.readArg k = .error (.emptySlot k)) ∧ ∀ k, t.readRes k = .error (.emptySlot k)

/-! ### The whole machine -/

/-- The invariant holds right after reset. -/
def Obligations.InvariantHoldsAtReset : Prop := State.reset.Inv

/-- R21, R38, R40, R43, R100, R14: every step keeps the invariant: every event of the history is a whole frame written
to ADDR, or a read of one to three groups from ADDR, or a delay that is not zero; and the block stands between two
operations, every call returned, or waits for the last call of the history, the only one that has not returned. -/
def Obligations.EveryStepKeepsTheInvariant : Prop :=
  ∀ s t : State, s.Inv → step s = .next t → t.Inv

/-- R44, R42: every step adds to the history at most one write, then at most one delay, then at most one read, and
nothing after a write that failed or has not returned; it changes nothing that stood there before. -/
def Obligations.EveryStepIsOneRoundTrip : Prop :=
  ∀ s t : State, step s = .next t → ∃ es, RoundTrip es ∧ t.bus = s.bus.play es

/-- R10, R11, R12, R16, R164: no step changes the address, the bus handle or the configuration, SOFT_RESET included. -/
def Obligations.AddressBusAndDelaysAreFixed : Prop :=
  ∀ s t : State, step s = .next t → t.addr = s.addr ∧ t.bus.handle = s.bus.handle ∧ t.delays = s.delays

/-- R10, R17, R140, R163: nothing survives from one operation to the next but the address and the bus: at two states
between operations that agree on these, on the configuration and on what the caller asks later, every operation behaves
the same to the caller, whatever the last result, the transient registers and the operand slots held. -/
def Obligations.NothingElseSurvivesAnOperation : Prop :=
  ∀ (i : Instr) (s t : State), SameInstance s t → SameOutcome (exec i s) (exec i t)

/-! ### The transient buffers -/

/-- R18, R19: TXBUF holds the whole frame once the write path has run, however the write and what follows it end; RXBUF
holds the bytes the one read returned, of whatever length, however the read path ends. -/
def Obligations.BuffersHoldTheFrames : Prop :=
  (∀ (s : State) (op : Word) (args : Words) (n : Nat) (d : Dur), args.length ≤ 2 →
      (s.wrFrame op args).state.txbuf = writeFrame op args ∧ (s.xfer op args n d).state.txbuf = writeFrame op args)
    ∧ ∀ (s : State) (n : Nat) (d : Dur) (bs : Bytes), n ≠ 0 →
      (s.bus.play (sleepEvents d)).readReply s.addr (3 * n) = .returned (.bytes bs) →
      (s.rdWords n d).state.rxbuf = bs
end

