-- ==== Sys2Proof/Laws/State.lean ====
section
/-! SUPPORT. One lemma per field per update of State and of Bus, each true by rfl, so that no later proof unfolds a
record update. -/

namespace Sys2Proof.Machine

/-! ### enter -/

@[simp] theorem State.enter_addr (s : State) (p : Phase) : (s.enter p).addr = s.addr := rfl
@[simp] theorem State.enter_bus (s : State) (p : Phase) : (s.enter p).bus = s.bus := rfl
@[simp] theorem State.enter_delays (s : State) (p : Phase) : (s.enter p).delays = s.delays := rfl
@[simp] theorem State.enter_phase (s : State) (p : Phase) : (s.enter p).phase = p := rfl
@[simp] theorem State.enter_acc (s : State) (p : Phase) : (s.enter p).acc = s.acc := rfl
@[simp] theorem State.enter_txbuf (s : State) (p : Phase) : (s.enter p).txbuf = s.txbuf := rfl
@[simp] theorem State.enter_rxbuf (s : State) (p : Phase) : (s.enter p).rxbuf = s.rxbuf := rfl
@[simp] theorem State.enter_arg (s : State) (p : Phase) : (s.enter p).arg = s.arg := rfl
@[simp] theorem State.enter_res (s : State) (p : Phase) : (s.enter p).res = s.res := rfl
@[simp] theorem State.enter_result (s : State) (p : Phase) : (s.enter p).result = s.result := rfl
@[simp] theorem State.enter_requests (s : State) (p : Phase) : (s.enter p).requests = s.requests := rfl
@[simp] theorem State.enter_freeIndex (s : State) (p : Phase) : (s.enter p).freeIndex = s.freeIndex := rfl

/-! ### loadArgs -/

@[simp] theorem State.loadArgs_addr (s : State) (args : Words) : (s.loadArgs args).addr = s.addr := rfl
@[simp] theorem State.loadArgs_bus (s : State) (args : Words) : (s.loadArgs args).bus = s.bus := rfl
@[simp] theorem State.loadArgs_delays (s : State) (args : Words) : (s.loadArgs args).delays = s.delays := rfl
@[simp] theorem State.loadArgs_phase (s : State) (args : Words) : (s.loadArgs args).phase = s.phase := rfl
@[simp] theorem State.loadArgs_acc (s : State) (args : Words) : (s.loadArgs args).acc = s.acc := rfl
@[simp] theorem State.loadArgs_txbuf (s : State) (args : Words) : (s.loadArgs args).txbuf = s.txbuf := rfl
@[simp] theorem State.loadArgs_rxbuf (s : State) (args : Words) : (s.loadArgs args).rxbuf = s.rxbuf := rfl
@[simp] theorem State.loadArgs_arg (s : State) (args : Words) : (s.loadArgs args).arg = #v[args[0]?, args[1]?] := rfl
@[simp] theorem State.loadArgs_res (s : State) (args : Words) : (s.loadArgs args).res = s.res := rfl
@[simp] theorem State.loadArgs_result (s : State) (args : Words) : (s.loadArgs args).result = s.result := rfl
@[simp] theorem State.loadArgs_requests (s : State) (args : Words) : (s.loadArgs args).requests = s.requests := rfl
@[simp] theorem State.loadArgs_freeIndex (s : State) (args : Words) : (s.loadArgs args).freeIndex = s.freeIndex := rfl

/-! ### writeRes -/

@[simp] theorem State.writeRes_addr (s : State) (g : Nat) (w : Word) : (s.writeRes g w).addr = s.addr := rfl
@[simp] theorem State.writeRes_bus (s : State) (g : Nat) (w : Word) : (s.writeRes g w).bus = s.bus := rfl
@[simp] theorem State.writeRes_delays (s : State) (g : Nat) (w : Word) : (s.writeRes g w).delays = s.delays := rfl
@[simp] theorem State.writeRes_phase (s : State) (g : Nat) (w : Word) : (s.writeRes g w).phase = s.phase := rfl
@[simp] theorem State.writeRes_acc (s : State) (g : Nat) (w : Word) : (s.writeRes g w).acc = s.acc := rfl
@[simp] theorem State.writeRes_txbuf (s : State) (g : Nat) (w : Word) : (s.writeRes g w).txbuf = s.txbuf := rfl
@[simp] theorem State.writeRes_rxbuf (s : State) (g : Nat) (w : Word) : (s.writeRes g w).rxbuf = s.rxbuf := rfl
@[simp] theorem State.writeRes_arg (s : State) (g : Nat) (w : Word) : (s.writeRes g w).arg = s.arg := rfl
@[simp] theorem State.writeRes_res (s : State) (g : Nat) (w : Word) : (s.writeRes g w).res = s.res.setIfInBounds g (some w) := rfl
@[simp] theorem State.writeRes_result (s : State) (g : Nat) (w : Word) : (s.writeRes g w).result = s.result := rfl
@[simp] theorem State.writeRes_requests (s : State) (g : Nat) (w : Word) : (s.writeRes g w).requests = s.requests := rfl
@[simp] theorem State.writeRes_freeIndex (s : State) (g : Nat) (w : Word) : (s.writeRes g w).freeIndex = s.freeIndex := rfl

/-! ### crcLoad -/

@[simp] theorem State.crcLoad_addr (s : State) : (s.crcLoad).addr = s.addr := rfl
@[simp] theorem State.crcLoad_bus (s : State) : (s.crcLoad).bus = s.bus := rfl
@[simp] theorem State.crcLoad_delays (s : State) : (s.crcLoad).delays = s.delays := rfl
@[simp] theorem State.crcLoad_phase (s : State) : (s.crcLoad).phase = s.phase := rfl
@[simp] theorem State.crcLoad_acc (s : State) : (s.crcLoad).acc = Config.crcInit := rfl
@[simp] theorem State.crcLoad_txbuf (s : State) : (s.crcLoad).txbuf = s.txbuf := rfl
@[simp] theorem State.crcLoad_rxbuf (s : State) : (s.crcLoad).rxbuf = s.rxbuf := rfl
@[simp] theorem State.crcLoad_arg (s : State) : (s.crcLoad).arg = s.arg := rfl
@[simp] theorem State.crcLoad_res (s : State) : (s.crcLoad).res = s.res := rfl
@[simp] theorem State.crcLoad_result (s : State) : (s.crcLoad).result = s.result := rfl
@[simp] theorem State.crcLoad_requests (s : State) : (s.crcLoad).requests = s.requests := rfl
@[simp] theorem State.crcLoad_freeIndex (s : State) : (s.crcLoad).freeIndex = s.freeIndex := rfl

/-! ### crcAbsorb -/

@[simp] theorem State.crcAbsorb_addr (s : State) (b : Byte) : (s.crcAbsorb b).addr = s.addr := rfl
@[simp] theorem State.crcAbsorb_bus (s : State) (b : Byte) : (s.crcAbsorb b).bus = s.bus := rfl
@[simp] theorem State.crcAbsorb_delays (s : State) (b : Byte) : (s.crcAbsorb b).delays = s.delays := rfl
@[simp] theorem State.crcAbsorb_phase (s : State) (b : Byte) : (s.crcAbsorb b).phase = s.phase := rfl
@[simp] theorem State.crcAbsorb_acc (s : State) (b : Byte) : (s.crcAbsorb b).acc = crcStep s.acc b := rfl
@[simp] theorem State.crcAbsorb_txbuf (s : State) (b : Byte) : (s.crcAbsorb b).txbuf = s.txbuf := rfl
@[simp] theorem State.crcAbsorb_rxbuf (s : State) (b : Byte) : (s.crcAbsorb b).rxbuf = s.rxbuf := rfl
@[simp] theorem State.crcAbsorb_arg (s : State) (b : Byte) : (s.crcAbsorb b).arg = s.arg := rfl
@[simp] theorem State.crcAbsorb_res (s : State) (b : Byte) : (s.crcAbsorb b).res = s.res := rfl
@[simp] theorem State.crcAbsorb_result (s : State) (b : Byte) : (s.crcAbsorb b).result = s.result := rfl
@[simp] theorem State.crcAbsorb_requests (s : State) (b : Byte) : (s.crcAbsorb b).requests = s.requests := rfl
@[simp] theorem State.crcAbsorb_freeIndex (s : State) (b : Byte) : (s.crcAbsorb b).freeIndex = s.freeIndex := rfl

/-! ### sleep -/

@[simp] theorem State.sleep_addr (s : State) (d : Dur) : (s.sleep d).addr = s.addr := rfl
@[simp] theorem State.sleep_bus (s : State) (d : Dur) : (s.sleep d).bus = s.bus.afterSleep d := rfl
@[simp] theorem State.sleep_delays (s : State) (d : Dur) : (s.sleep d).delays = s.delays := rfl
@[simp] theorem State.sleep_phase (s : State) (d : Dur) : (s.sleep d).phase = s.phase := rfl
@[simp] theorem State.sleep_acc (s : State) (d : Dur) : (s.sleep d).acc = s.acc := rfl
@[simp] theorem State.sleep_txbuf (s : State) (d : Dur) : (s.sleep d).txbuf = s.txbuf := rfl
@[simp] theorem State.sleep_rxbuf (s : State) (d : Dur) : (s.sleep d).rxbuf = s.rxbuf := rfl
@[simp] theorem State.sleep_arg (s : State) (d : Dur) : (s.sleep d).arg = s.arg := rfl
@[simp] theorem State.sleep_res (s : State) (d : Dur) : (s.sleep d).res = s.res := rfl
@[simp] theorem State.sleep_result (s : State) (d : Dur) : (s.sleep d).result = s.result := rfl
@[simp] theorem State.sleep_requests (s : State) (d : Dur) : (s.sleep d).requests = s.requests := rfl
@[simp] theorem State.sleep_freeIndex (s : State) (d : Dur) : (s.sleep d).freeIndex = s.freeIndex := rfl

/-! ### begin -/

@[simp] theorem State.begin_addr (s : State) (args : Words) : (s.begin args).addr = s.addr := rfl
@[simp] theorem State.begin_bus (s : State) (args : Words) : (s.begin args).bus = s.bus := rfl
@[simp] theorem State.begin_delays (s : State) (args : Words) : (s.begin args).delays = s.delays := rfl
@[simp] theorem State.begin_phase (s : State) (args : Words) : (s.begin args).phase = .validate := rfl
@[simp] theorem State.begin_acc (s : State) (args : Words) : (s.begin args).acc = s.acc := rfl
@[simp] theorem State.begin_txbuf (s : State) (args : Words) : (s.begin args).txbuf = s.txbuf := rfl
@[simp] theorem State.begin_rxbuf (s : State) (args : Words) : (s.begin args).rxbuf = s.rxbuf := rfl
@[simp] theorem State.begin_arg (s : State) (args : Words) : (s.begin args).arg = #v[args[0]?, args[1]?] := rfl
@[simp] theorem State.begin_res (s : State) (args : Words) : (s.begin args).res = #v[none, none, none] := rfl
@[simp] theorem State.begin_result (s : State) (args : Words) : (s.begin args).result = none := rfl
@[simp] theorem State.begin_requests (s : State) (args : Words) : (s.begin args).requests = s.requests := rfl
@[simp] theorem State.begin_freeIndex (s : State) (args : Words) : (s.begin args).freeIndex = s.freeIndex := rfl

/-! ### retire -/

@[simp] theorem State.retire_addr (s : State) (r : Result Value) : (s.retire r).addr = s.addr := rfl
@[simp] theorem State.retire_bus (s : State) (r : Result Value) : (s.retire r).bus = s.bus := rfl
@[simp] theorem State.retire_delays (s : State) (r : Result Value) : (s.retire r).delays = s.delays := rfl
@[simp] theorem State.retire_phase (s : State) (r : Result Value) : (s.retire r).phase = .idle := rfl
@[simp] theorem State.retire_acc (s : State) (r : Result Value) : (s.retire r).acc = Config.staleAcc s.freeIndex := rfl
@[simp] theorem State.retire_txbuf (s : State) (r : Result Value) : (s.retire r).txbuf = Config.staleTx s.freeIndex := rfl
@[simp] theorem State.retire_rxbuf (s : State) (r : Result Value) : (s.retire r).rxbuf = Config.staleRx s.freeIndex := rfl
@[simp] theorem State.retire_arg (s : State) (r : Result Value) : (s.retire r).arg = #v[none, none] := rfl
@[simp] theorem State.retire_res (s : State) (r : Result Value) : (s.retire r).res = #v[none, none, none] := rfl
@[simp] theorem State.retire_result (s : State) (r : Result Value) : (s.retire r).result = some r := rfl
@[simp] theorem State.retire_requests (s : State) (r : Result Value) : (s.retire r).requests = s.requests := rfl
@[simp] theorem State.retire_freeIndex (s : State) (r : Result Value) : (s.retire r).freeIndex = s.freeIndex + 1 := rfl

/-! ### The bus -/

@[simp] theorem Event.ofWrite_returned (a : Addr7) (bs : Bytes) (r : WriteAnswer) : Event.ofWrite a bs (.returned r) = .write a bs r := rfl
@[simp] theorem Event.ofWrite_neverReturns (a : Addr7) (bs : Bytes) : Event.ofWrite a bs .neverReturns = .writePending a bs := rfl
@[simp] theorem Event.ofRead_returned (a : Addr7) (n : Nat) (r : ReadAnswer) : Event.ofRead a n (.returned r) = .read a n r := rfl
@[simp] theorem Event.ofRead_neverReturns (a : Addr7) (n : Nat) : Event.ofRead a n .neverReturns = .readPending a n := rfl

@[simp] theorem Bus.afterWrite_handle (b : Bus) (a : Addr7) (bs : Bytes) (r : Reply WriteAnswer) : (b.afterWrite a bs r).handle = b.handle := rfl
@[simp] theorem Bus.afterWrite_history (b : Bus) (a : Addr7) (bs : Bytes) (r : Reply WriteAnswer) : (b.afterWrite a bs r).history = b.history ++ [Event.ofWrite a bs r] := rfl
@[simp] theorem Bus.afterWrite_writeReplies (b : Bus) (a : Addr7) (bs : Bytes) (r : Reply WriteAnswer) : (b.afterWrite a bs r).writeReplies = b.writeReplies.tail := rfl
@[simp] theorem Bus.afterWrite_readReplies (b : Bus) (a : Addr7) (bs : Bytes) (r : Reply WriteAnswer) : (b.afterWrite a bs r).readReplies = b.readReplies := rfl
@[simp] theorem Bus.afterRead_handle (b : Bus) (a : Addr7) (n : Nat) (r : Reply ReadAnswer) : (b.afterRead a n r).handle = b.handle := rfl
@[simp] theorem Bus.afterRead_history (b : Bus) (a : Addr7) (n : Nat) (r : Reply ReadAnswer) : (b.afterRead a n r).history = b.history ++ [Event.ofRead a n r] := rfl
@[simp] theorem Bus.afterRead_writeReplies (b : Bus) (a : Addr7) (n : Nat) (r : Reply ReadAnswer) : (b.afterRead a n r).writeReplies = b.writeReplies := rfl
@[simp] theorem Bus.afterRead_readReplies (b : Bus) (a : Addr7) (n : Nat) (r : Reply ReadAnswer) : (b.afterRead a n r).readReplies = b.readReplies.tail := rfl
@[simp] theorem Bus.play_handle (b : Bus) (es : List Event) : (b.play es).handle = b.handle := rfl
@[simp] theorem Bus.play_history (b : Bus) (es : List Event) : (b.play es).history = b.history ++ es := rfl
@[simp] theorem Bus.play_writeReplies (b : Bus) (es : List Event) : (b.play es).writeReplies = b.writeReplies.drop (es.countP Event.isWrite) := rfl
@[simp] theorem Bus.play_readReplies (b : Bus) (es : List Event) : (b.play es).readReplies = b.readReplies.drop (es.countP Event.isRead) := rfl

@[simp] theorem Bus.play_nil (b : Bus) : b.play [] = b := by
  cases b; simp [Bus.play]

theorem Bus.afterWrite_eq_play (b : Bus) (a : Addr7) (bs : Bytes) (r : Reply WriteAnswer) :
    b.afterWrite a bs r = b.play [Event.ofWrite a bs r] := by
  cases r <;> simp [Bus.afterWrite, Bus.play, Event.ofWrite, Event.isWrite, Event.isRead]

theorem Bus.afterRead_eq_play (b : Bus) (a : Addr7) (n : Nat) (r : Reply ReadAnswer) :
    b.afterRead a n r = b.play [Event.ofRead a n r] := by
  cases r <;> simp [Bus.afterRead, Bus.play, Event.ofRead, Event.isWrite, Event.isRead]

theorem Bus.afterSleep_eq_play (b : Bus) (d : Dur) : b.afterSleep d = b.play (sleepEvents d) := by
  by_cases h : d = 0 <;> simp [Bus.afterSleep, sleepEvents, h, Bus.play, Event.isWrite, Event.isRead]

/-- Calls made one after the other are recorded one after the other (R44, R45). -/
theorem Bus.play_play (b : Bus) (es fs : List Event) : (b.play es).play fs = b.play (es ++ fs) := by
  simp [Bus.play, List.countP_append]

end Sys2Proof.Machine
end

