-- ==== Sys2Proof/Laws/Checksum.lean ====
section
/-! SUPPORT. What the checksum engine computes (40_crc.md), and that the engine on ACC computes the pure function. -/

namespace Sys2Proof.Machine

@[simp] theorem crc8_nil : crc8 [] = Config.crcInit := rfl

/-- Absorbing one more byte (R74). -/
theorem crc8_append_one (bs : Bytes) (b : Byte) : crc8 (bs ++ [b]) = crcStep (crc8 bs) b := by
  simp [crc8]

/-- The eight shift iterations of one byte step (R74). -/
def shift8 (a : Byte) : Byte := shift1 (shift1 (shift1 (shift1 (shift1 (shift1 (shift1 (shift1 a)))))))

theorem crcStep_eq (a b : Byte) : crcStep a b = shift8 (a ^^^ b) := rfl

/-- Two equal terms cancel in a sum over exclusive or. -/
theorem xor_cancel (x y p : Byte) : (x ^^^ p) ^^^ (y ^^^ p) = x ^^^ y := by
  rw [BitVec.xor_comm y p, BitVec.xor_assoc, ← BitVec.xor_assoc p p y, BitVec.xor_self, BitVec.zero_xor]

/-- A shift iteration is linear over exclusive or. -/
theorem shift1_xor (a b : Byte) : shift1 (a ^^^ b) = shift1 a ^^^ shift1 b := by
  unfold shift1
  rw [BitVec.getLsbD_xor]
  cases a.getLsbD 7 <;> cases b.getLsbD 7 <;> simp [BitVec.shiftLeft_xor_distrib]
  · exact BitVec.xor_assoc ..
  · rw [BitVec.xor_assoc, BitVec.xor_assoc, BitVec.xor_comm Config.crcPoly]
  · exact (xor_cancel ..).symm

theorem shift8_xor (a b : Byte) : shift8 (a ^^^ b) = shift8 a ^^^ shift8 b := by
  simp only [shift8, shift1_xor]

@[simp] theorem shift8_zero : shift8 0 = 0 := by decide

/-- A byte equal to the accumulator clears it (R78, corner cases). -/
theorem crcStep_self (a : Byte) : crcStep a a = 0 := by
  rw [crcStep_eq, BitVec.xor_self]; exact shift8_zero

/-- The engine on ACC runs the byte step over the bytes. -/
theorem State.crcAbsorb_foldl (bs : Bytes) (s : State) :
    bs.foldl State.crcAbsorb s = { s with acc := bs.foldl crcStep s.acc } := by
  induction bs generalizing s with
  | nil => rfl
  | cons b bs ih => simp only [List.foldl_cons, ih]; rfl

/-- The engine leaves the checksum in ACC and changes nothing else (R77). -/
theorem State.crcRun_eq (s : State) (bs : Bytes) : s.crcRun bs = { s with acc := crc8 bs } := by
  unfold State.crcRun
  rw [State.crcAbsorb_foldl]
  rfl

end Sys2Proof.Machine
end

