-- ==== Sys2Proof/Laws/Frames.lean ====
section
/-! SUPPORT. Lengths and bytes of groups and frames (30_encoding.md R50, R51; 20_memory.md R37, R38), and what the
operand slots hold. -/

namespace Sys2Proof.Machine

@[simp] theorem encGroup_length (w : Word) : (encGroup w).length = 3 := rfl

@[simp] theorem opcodeBytes_length (op : Word) : (opcodeBytes op).length = 2 := rfl

theorem flatMap_encGroup_length (ws : Words) : (ws.flatMap encGroup).length = 3 * ws.length := by
  induction ws with
  | nil => rfl
  | cons w ws ih => simp only [List.flatMap_cons, List.length_append, encGroup_length, ih, List.length_cons]; omega

/-- A sequence read as groups gives one word per three bytes (R37). -/
theorem decGroups_length {bs : Bytes} {ws : Words} (n : Nat) (hn : bs.length = 3 * n) (h : decGroups bs = .ok ws) :
    ws.length = n := by
  induction n generalizing bs ws with
  | zero => cases bs <;> simp_all [decGroups]
  | succ n ih =>
    match bs, hn with
    | b0 :: b1 :: b2 :: rest, hn =>
      simp only [decGroups] at h
      have hr : rest.length = 3 * n := by simp only [List.length_cons] at hn; omega
      split at h
      · cases h
      · split at h
        · cases h
        · next ws' hws => cases h; simp [ih hr hws]

/-- The slots hold exactly the words loaded, as long as there are at most two (R13). -/
theorem State.argWords_loadArgs (s : State) (args : Words) (h : args.length ≤ 2) :
    (s.loadArgs args).argWords = args := by
  match args, h with
  | [], _ => rfl
  | [_], _ => rfl
  | [_, _], _ => rfl

/-- The engine's last checksum when a list of words is framed; the old ACC when there is no word. -/
def lastChecksum (a : Byte) (ws : Words) : Byte := ws.foldl (fun _ w => crc8 [hiByte w, loByte w]) a

/-- Appending groups for a list of words (R95). -/
theorem State.appendGroup_foldl (ws : Words) (s : State) :
    ws.foldl State.appendGroup s
      = { s with acc := lastChecksum s.acc ws, txbuf := s.txbuf ++ ws.flatMap encGroup } := by
  induction ws generalizing s with
  | nil => simp [lastChecksum]
  | cons w ws ih =>
    simp only [List.foldl_cons, ih, State.appendGroup, State.crcRun_eq, List.flatMap_cons, lastChecksum, encGroup,
      List.append_assoc]

/-- Response words written into the RES slots from slot `g` on. -/
def storeRes (g : Nat) (ws : Words) (r : Vector (Option Word) 3) : Vector (Option Word) 3 :=
  match ws with
  | [] => r
  | w :: ws => storeRes (g + 1) ws (r.setIfInBounds g (some w))

/-- Up to three words stored from slot 0 on are the words the slots hold (R13, R98). -/
theorem storeRes_words (ws : Words) (h : ws.length ≤ 3) :
    (storeRes 0 ws #v[none, none, none]).toList.filterMap id = ws := by
  match ws, h with
  | [], _ => rfl
  | [_], _ => rfl
  | [_, _], _ => rfl
  | [_, _, _], _ => rfl

end Sys2Proof.Machine
end

