-- ==== Sys2Proof/Laws/Ops.lean ====
section
/-! SUPPORT. For each shared operation of Machine/Ops.lean, one lemma that says everything it can do; the meanings are
reasoned about through these. -/

namespace Sys2Proof.Machine

/-- What a part of an operation can change: `es` is added to the bus's history, and the transient registers, PHASE and
the slots may differ; nothing else does. -/
structure Moved (s t : State) (es : List Event) : Prop where
  addr : t.addr = s.addr
  bus : t.bus = s.bus.play es
  delays : t.delays = s.delays
  result : t.result = s.result
  requests : t.requests = s.requests
  freeIndex : t.freeIndex = s.freeIndex

theorem Moved.trans {s t u : State} {es fs : List Event} (h : Moved s t es) (k : Moved t u fs) :
    Moved s u (es ++ fs) where
  addr := k.addr.trans h.addr
  bus := by rw [k.bus, h.bus, Bus.play_play]
  delays := k.delays.trans h.delays
  result := k.result.trans h.result
  requests := k.requests.trans h.requests
  freeIndex := k.freeIndex.trans h.freeIndex

/-- The run ends with `x` after the calls `es`. -/
def Run.Ends {α : Type} (r : Run α) (s : State) (es : List Event) (x : Result α) : Prop :=
  ∃ t, Moved s t es ∧ r = match x with
    | .ok v => .done v t
    | .err k => .raised k t

/-- The run is left waiting in phase `p` for the last of the calls `es`. -/
def Run.Waits {α : Type} (r : Run α) (s : State) (es : List Event) (p : Phase) : Prop :=
  ∃ t, Moved s t es ∧ t.phase = p ∧ r = .waiting t

/-! ### The write path -/

/-- The state in which the write call of a frame is made (R95). -/
def State.framed (s : State) (op : Word) (args : Words) : State :=
  { s with
    phase := .write
    arg := #v[args[0]?, args[1]?]
    acc := lastChecksum s.acc args
    txbuf := writeFrame op args }

/-- WR_FRAME builds the frame of R51 and makes the one write call (R95). -/
theorem State.wrFrame_eq (s : State) (op : Word) (args : Words) (h : args.length ≤ 2) :
    s.wrFrame op args
      = match s.bus.writeReply s.addr (writeFrame op args) with
        | .neverReturns =>
          .waiting { s.framed op args with bus := s.bus.play [.writePending s.addr (writeFrame op args)] }
        | .returned .fail =>
          .raised .transportError { s.framed op args with bus := s.bus.play [.write s.addr (writeFrame op args) .fail] }
        | .returned .ok =>
          .done () { s.framed op args with bus := s.bus.play [.write s.addr (writeFrame op args) .ok] } := by
  have hb : ((((s.loadArgs args).enter .build).buildFrame op).enter .write) = s.framed op args := by
    unfold State.buildFrame
    rw [State.appendGroup_foldl, show ((s.loadArgs args).enter .build).argWords = args from s.argWords_loadArgs args h]
    rfl
  have ht : (((s.loadArgs args).enter .build).buildFrame op).txbuf = writeFrame op args := congrArg State.txbuf hb
  unfold State.wrFrame
  simp only [ht, hb, State.memWrite]
  change (Run.ofReply (s.bus.writeReply s.addr (writeFrame op args)) { s.framed op args with
    bus := s.bus.afterWrite s.addr (writeFrame op args) (s.bus.writeReply s.addr (writeFrame op args)) }).andThen _ = _
  rw [Bus.afterWrite_eq_play]
  generalize s.bus.writeReply s.addr (writeFrame op args) = r
  cases r with
  | neverReturns => rfl
  | returned r => cases r <;> rfl

theorem State.moved_framed (s : State) (op : Word) (args : Words) (es : List Event) :
    Moved s { s.framed op args with bus := s.bus.play es } es :=
  ⟨rfl, rfl, rfl, rfl, rfl, rfl⟩

/-! ### The read path -/

/-- Verifying groups gives the words of `decGroups`, each stored in its RES slot, or its error (R98, R99); the buffers
stay as they are. -/
theorem State.verifyGroups_eq (bs : Bytes) (g : Nat) (s : State) :
    ∃ t, (Moved s t [] ∧ t.txbuf = s.txbuf ∧ t.rxbuf = s.rxbuf) ∧ State.verifyGroups g bs s = match decGroups bs with
      | .ok ws => .done () { t with res := storeRes g ws s.res }
      | .err k => .raised k t := by
  induction bs using decGroups.induct generalizing g s with
  | case1 b0 b1 b2 rest k hk =>
    refine ⟨{ s with acc := crc8 [b0, b1] }, ⟨⟨rfl, by simp, rfl, rfl, rfl, rfl⟩, rfl, rfl⟩, ?_⟩
    simp only [State.verifyGroups, decGroups, State.decGroup, State.crcRun_eq, Machine.decGroup] at *
    split at hk <;> simp_all
  | case2 b0 b1 b2 rest w hw k hk ih =>
    obtain ⟨t, ⟨ht, htx, hrx⟩, he⟩ := ih (g + 1) ({ s with acc := crc8 [b0, b1] }.writeRes g w)
    refine ⟨t, ⟨⟨ht.addr, ht.bus, ht.delays, ht.result, ht.requests, ht.freeIndex⟩, htx, hrx⟩, ?_⟩
    simp only [hk] at he
    simp only [State.verifyGroups, decGroups, State.decGroup, State.crcRun_eq, Machine.decGroup, hk] at *
    split at hw <;> simp_all
  | case3 b0 b1 b2 rest w hw ws hws ih =>
    obtain ⟨t, ⟨ht, htx, hrx⟩, he⟩ := ih (g + 1) ({ s with acc := crc8 [b0, b1] }.writeRes g w)
    refine ⟨t, ⟨⟨ht.addr, ht.bus, ht.delays, ht.result, ht.requests, ht.freeIndex⟩, htx, hrx⟩, ?_⟩
    simp only [hws] at he
    simp only [State.verifyGroups, decGroups, State.decGroup, State.crcRun_eq, Machine.decGroup, hws] at *
    split at hw <;> simp_all [storeRes]
  | case4 bs h =>
    refine ⟨s, ⟨⟨rfl, by simp, rfl, rfl, rfl, rfl⟩, rfl, rfl⟩, ?_⟩
    match bs, h with
    | [], _ => rfl
    | [_], _ => rfl
    | [_, _], _ => rfl
    | b0 :: b1 :: b2 :: rest, h => exact absurd rfl (h b0 b1 b2 rest)

/-- The result of a read that the bus answered with `a` (R98). -/
def readOutcome (n : Nat) : ReadAnswer → Result Words
  | .fail => .err .transportError
  | .bytes bs => readFrame n bs

/-- RD_WORDS with no word to read: the delay alone (R100). -/
theorem State.rdWords_zero (s : State) (d : Dur) : (s.rdWords 0 d).Ends s (sleepEvents d) (.ok []) :=
  ⟨(s.enter .delay).sleep d, ⟨rfl, by simp [Bus.afterSleep_eq_play], rfl, rfl, rfl, rfl⟩, rfl⟩

/-- RD_WORDS whose read the bus answers: the delay, the one read, and the outcome of R98. -/
theorem State.rdWords_answered (s : State) (n : Nat) (d : Dur) (a : ReadAnswer) (h0 : n ≠ 0) (hn : n ≤ 3)
    (hres : s.res = #v[none, none, none])
    (ha : (s.bus.play (sleepEvents d)).readReply s.addr (3 * n) = .returned a) :
    (s.rdWords n d).Ends s (sleepEvents d ++ [.read s.addr (3 * n) a]) (readOutcome n a) := by
  have hb : (s.bus.afterSleep d) = s.bus.play (sleepEvents d) := Bus.afterSleep_eq_play ..
  unfold State.rdWords
  simp only [h0, if_false, State.memRead, Config.groupBytes, State.enter_bus, State.sleep_bus, State.enter_addr,
    State.sleep_addr, hb, ha, Run.ofReply, Run.andThen, Bus.afterRead_eq_play, Event.ofRead, Bus.play_play]
  cases a with
  | fail =>
    refine ⟨_, ?_, rfl⟩
    exact ⟨rfl, rfl, rfl, rfl, rfl, rfl⟩
  | bytes bs =>
    simp only [readOutcome, readFrame, Config.groupBytes]
    by_cases hl : bs.length = 3 * n
    · simp only [hl, ne_eq, not_true_eq_false, if_false]
      generalize hs : State.enter _ Phase.verify = s1
      obtain ⟨t, ⟨ht, -⟩, he⟩ := State.verifyGroups_eq bs 0 s1
      have hr : s1.res = #v[none, none, none] := by rw [← hs]; exact hres
      have hm : Moved s s1 (sleepEvents d ++ [.read s.addr (3 * n) (.bytes bs)]) := by
        subst hs; exact ⟨rfl, rfl, rfl, rfl, rfl, rfl⟩
      have hm2 := hm.trans ht
      rw [List.append_nil] at hm2
      rw [he]
      cases hd : decGroups bs with
      | err k => exact ⟨t, hm2, rfl⟩
      | ok ws =>
        refine ⟨{ t with res := storeRes 0 ws s1.res }, ⟨hm2.addr, hm2.bus, hm2.delays, hm2.result, hm2.requests,
          hm2.freeIndex⟩, ?_⟩
        have hw := storeRes_words ws (by rw [decGroups_length n hl hd]; exact hn)
        simp only [State.resWords, hr, hw]
    · simp only [hl, ne_eq, not_false_eq_true, if_true]
      refine ⟨_, ?_, rfl⟩
      exact ⟨rfl, rfl, rfl, rfl, rfl, rfl⟩

/-- RD_WORDS whose read never returns waits in READ, the read recorded (R42, R175). -/
theorem State.rdWords_waits (s : State) (n : Nat) (d : Dur) (h0 : n ≠ 0)
    (ha : (s.bus.play (sleepEvents d)).readReply s.addr (3 * n) = .neverReturns) :
    (s.rdWords n d).Waits s (sleepEvents d ++ [.readPending s.addr (3 * n)]) .read := by
  have hb : (s.bus.afterSleep d) = s.bus.play (sleepEvents d) := Bus.afterSleep_eq_play ..
  unfold State.rdWords
  simp only [h0, if_false, State.memRead, Config.groupBytes, State.enter_bus, State.sleep_bus, State.enter_addr,
    State.sleep_addr, hb, ha, Run.ofReply, Run.andThen, Bus.afterRead_eq_play, Event.ofRead, Bus.play_play]
  refine ⟨_, ?_, ?_, rfl⟩
  · exact ⟨rfl, rfl, rfl, rfl, rfl, rfl⟩
  · rfl

/-- The read path leaves TXBUF as it is (R98). -/
theorem State.rdWords_txbuf (s : State) (n : Nat) (d : Dur) : (s.rdWords n d).state.txbuf = s.txbuf := by
  unfold State.rdWords
  by_cases h0 : n = 0
  · simp [h0, Run.state]
  simp only [h0, if_false, State.memRead]
  generalize (((s.enter .delay).sleep d).enter .read).bus.readReply _ _ = r
  cases r with
  | neverReturns => rfl
  | returned a =>
    cases a with
    | fail => rfl
    | bytes bs =>
      simp only [Run.ofReply, Run.andThen]
      by_cases hl : bs.length = Config.groupBytes * n
      · simp only [hl, ne_eq, not_true_eq_false, if_false]
        generalize hs : State.enter _ Phase.verify = s1
        obtain ⟨t, ⟨-, htx, -⟩, he⟩ := State.verifyGroups_eq bs 0 s1
        have h1 : s1.txbuf = s.txbuf := by rw [← hs]; rfl
        rw [he]
        cases decGroups bs <;> simp [Run.state, htx, h1]
      · simp only [hl, ne_eq, not_false_eq_true, if_true]
        rfl

/-! ### Issuing and returning -/

/-- Returning gives the frame of an operation, whatever the transient registers hold. -/
theorem State.retire_returned (s t : State) (args : Words) (es : List Event) (x : Result Value)
    (h : Moved (s.begin args) t es) : Returned s (t.retire x) es x :=
  ⟨h.addr, h.bus, h.delays, rfl, rfl, rfl, rfl, h.requests⟩

/-- An operation whose body ends answers a next state, with the body's calls and result (R139, R44). -/
theorem operation_ends {args : Words} {body : State → Run Value} {s : State} {es : List Event} {x : Result Value}
    (hi : s.phase = .idle) (h : (body (s.begin args)).Ends (s.begin args) es x) :
    ∃ t, operation args body s = .next t ∧ Returned s t es x := by
  obtain ⟨t, hm, he⟩ := h
  refine ⟨t.retire x, ?_, State.retire_returned s t args es x hm⟩
  simp only [operation, hi, if_true, he]
  cases x <;> rfl

/-- A meaning that is an operation completes when its body ends. -/
theorem Completes.of_ends {i : Instr} {args : Words} {body : State → Run Value} {s : State} {es : List Event}
    {x : Result Value} (he : exec i s = operation args body s) (hi : s.phase = .idle)
    (h : (body (s.begin args)).Ends (s.begin args) es x) : Completes i s es x := by
  unfold Completes
  rw [he]
  exact operation_ends hi h

/-- An operation whose body is left waiting is left in that phase, in that very state, with no result (R175). -/
theorem operation_waits {args : Words} {body : State → Run Value} {s : State} {es : List Event} {p : Phase}
    (hi : s.phase = .idle) (h : (body (s.begin args)).Waits (s.begin args) es p) :
    ∃ t, operation args body s = .next t ∧ Moved { s with result := none } t es ∧ t.phase = p
      ∧ body (s.begin args) = .waiting t := by
  obtain ⟨t, hm, hp, he⟩ := h
  refine ⟨t, ?_, ⟨hm.addr, hm.bus, hm.delays, hm.result, hm.requests, hm.freeIndex⟩, hp, he⟩
  simp only [operation, hi, if_true, he]
  rfl

/-- An operation issued while another is in progress is refused (R150). -/
theorem operation_overlapping {args : Words} {body : State → Run Value} {s : State} (h : s.phase ≠ .idle) :
    operation args body s = .refused .overlappingOperation := by
  simp [operation, h]

/-! ### XFER and the commands -/

/-- XFER whose write fails ends there (R110). -/
theorem State.xfer_write_fails (s : State) (op : Word) (args : Words) (n : Nat) (d : Dur) (h : args.length ≤ 2)
    (hw : s.bus.writeReply s.addr (writeFrame op args) = .returned .fail) :
    (s.xfer op args n d).Ends s [.write s.addr (writeFrame op args) .fail] (.err .transportError) := by
  refine ⟨_, s.moved_framed op args _, ?_⟩
  simp only [State.xfer, State.wrFrame_eq s op args h, hw, Run.andThen]

/-- XFER whose write never returns waits in WRITE, the write recorded (R42, R175). -/
theorem State.xfer_write_waits (s : State) (op : Word) (args : Words) (n : Nat) (d : Dur) (h : args.length ≤ 2)
    (hw : s.bus.writeReply s.addr (writeFrame op args) = .neverReturns) :
    (s.xfer op args n d).Waits s [.writePending s.addr (writeFrame op args)] .write := by
  refine ⟨_, s.moved_framed op args _, rfl, ?_⟩
  simp only [State.xfer, State.wrFrame_eq s op args h, hw, Run.andThen]

/-- XFER whose write succeeds goes on with the read path from there (R110). -/
theorem State.xfer_write_ok (s : State) (op : Word) (args : Words) (n : Nat) (d : Dur) (h : args.length ≤ 2)
    (hw : s.bus.writeReply s.addr (writeFrame op args) = .returned .ok) :
    ∃ t, Moved s t [.write s.addr (writeFrame op args) .ok] ∧ (t.res = s.res ∧ t.txbuf = writeFrame op args)
      ∧ s.xfer op args n d = t.rdWords n d := by
  refine ⟨_, s.moved_framed op args _, ⟨rfl, rfl⟩, ?_⟩
  simp only [State.xfer, State.wrFrame_eq s op args h, hw, Run.andThen]

theorem Run.Ends.of_moved {α : Type} {r : Run α} {s t : State} {es fs : List Event} {x : Result α}
    (h : r.Ends t fs x) (hm : Moved s t es) : r.Ends s (es ++ fs) x := by
  obtain ⟨u, hu, he⟩ := h
  exact ⟨u, hm.trans hu, he⟩

theorem Run.Waits.of_moved {α : Type} {r : Run α} {s t : State} {es fs : List Event} {p : Phase}
    (h : r.Waits t fs p) (hm : Moved s t es) : r.Waits s (es ++ fs) p := by
  obtain ⟨u, hu, hp, he⟩ := h
  exact ⟨u, hm.trans hu, hp, he⟩

/-- XFER with no word to read: the write and the delay (R110, R100). -/
theorem State.xfer_zero (s : State) (op : Word) (args : Words) (d : Dur) (h : args.length ≤ 2)
    (hw : s.bus.writeReply s.addr (writeFrame op args) = .returned .ok) :
    (s.xfer op args 0 d).Ends s (.write s.addr (writeFrame op args) .ok :: sleepEvents d) (.ok []) := by
  obtain ⟨t, hm, _, he⟩ := s.xfer_write_ok op args 0 d h hw
  rw [he]
  exact (t.rdWords_zero d).of_moved hm

/-- XFER whose write succeeds and whose read the bus answers (R110, R98). -/
theorem State.xfer_answered (s : State) (op : Word) (args : Words) (n : Nat) (d : Dur) (a : ReadAnswer)
    (h : args.length ≤ 2) (h0 : n ≠ 0) (hn : n ≤ 3) (hres : s.res = #v[none, none, none])
    (hw : s.bus.writeReply s.addr (writeFrame op args) = .returned .ok)
    (ha : (s.bus.play (.write s.addr (writeFrame op args) .ok :: sleepEvents d)).readReply s.addr (3 * n)
      = .returned a) :
    (s.xfer op args n d).Ends s
      (.write s.addr (writeFrame op args) .ok :: (sleepEvents d ++ [.read s.addr (3 * n) a])) (readOutcome n a) := by
  obtain ⟨t, hm, ⟨ht, -⟩, he⟩ := s.xfer_write_ok op args n d h hw
  rw [he]
  have := t.rdWords_answered n d a h0 hn (ht.trans hres) (by rw [hm.bus, hm.addr, Bus.play_play]; exact ha)
  rw [hm.addr] at this
  exact this.of_moved hm

/-- XFER whose write succeeds and whose read never returns (R175). -/
theorem State.xfer_read_waits (s : State) (op : Word) (args : Words) (n : Nat) (d : Dur)
    (h : args.length ≤ 2) (h0 : n ≠ 0)
    (hw : s.bus.writeReply s.addr (writeFrame op args) = .returned .ok)
    (ha : (s.bus.play (.write s.addr (writeFrame op args) .ok :: sleepEvents d)).readReply s.addr (3 * n)
      = .neverReturns) :
    (s.xfer op args n d).Waits s
      (.write s.addr (writeFrame op args) .ok :: (sleepEvents d ++ [.readPending s.addr (3 * n)])) .read := by
  obtain ⟨t, hm, _, he⟩ := s.xfer_write_ok op args n d h hw
  rw [he]
  have := t.rdWords_waits n d h0 (by rw [hm.bus, hm.addr, Bus.play_play]; exact ha)
  rw [hm.addr] at this
  exact this.of_moved hm

/-- A result carried through the interpretation step. -/
def Result.map {α β : Type} (f : α → β) : Result α → Result β
  | .ok v => .ok (f v)
  | .err k => .err k

/-- A last step that only turns the value into the caller's leaves calls and errors as they are (R139). -/
theorem Run.Ends.andThen {α β : Type} {r : Run α} {s : State} {es : List Event} {x : Result α} (f : α → β)
    (g : State → State) (hg : ∀ t, Moved t (g t) []) (h : r.Ends s es x) :
    (r.andThen fun v t => .done (f v) (g t)).Ends s es (x.map f) := by
  obtain ⟨t, hm, he⟩ := h
  have hm2 := hm.trans (hg t)
  rw [List.append_nil] at hm2
  cases x with
  | ok v => exact ⟨g t, hm2, by rw [he]; rfl⟩
  | err k => exact ⟨t, hm, by rw [he]; rfl⟩

theorem Run.Ends.interpret {r : Run Words} {s : State} {es : List Event} {x : Result Words} (f : Words → Value)
    (h : r.Ends s es x) : (r.interpret f).Ends s es (x.map f) :=
  h.andThen f (fun t => t.enter .interpret) fun t => ⟨rfl, by simp, rfl, rfl, rfl, rfl⟩

theorem Run.Waits.andThen {α β : Type} {r : Run α} {s : State} {es : List Event} {p : Phase}
    (f : α → State → Run β) (h : r.Waits s es p) : (r.andThen f).Waits s es p := by
  obtain ⟨t, hm, hp, he⟩ := h
  exact ⟨t, hm, hp, by rw [he]; rfl⟩

/-! ### Everything a path can do -/

/-- What a part of an operation does at `s`, whatever the bus answers: calls `es` of the form of R44, each legal for the
instance, and then either, every call returned, an end with a result that `P` allows, or waiting in the phase of the
last call, the only one that has not returned (R175). -/
def Run.Can {α : Type} (r : Run α) (s : State) (P : Result α → Prop) : Prop :=
  ∃ es, RoundTrip es ∧ (∀ e ∈ es, Event.Legal s.addr e)
    ∧ ((∃ x, P x ∧ r.Ends s es x ∧ Settled es)
      ∨ ∃ fs e p, es = fs ++ [e] ∧ Settled fs ∧ e.pendingIn = some p ∧ r.Waits s es p)

@[simp] theorem settled_nil : Settled [] := by simp [Settled]

@[simp] theorem settled_cons (e : Event) (es : List Event) :
    Settled (e :: es) ↔ e.pendingIn = none ∧ Settled es := by simp [Settled]

@[simp] theorem settled_append (es fs : List Event) : Settled (es ++ fs) ↔ Settled es ∧ Settled fs := by
  simp only [Settled, List.mem_append, or_imp, forall_and]

@[simp] theorem settled_sleepEvents (d : Dur) : Settled (sleepEvents d) := by
  by_cases h : d = 0 <;> simp [sleepEvents, h, Event.pendingIn]

theorem roundTrip_nil : RoundTrip [] := ⟨none, none, none, rfl, by simp⟩

theorem roundTrip_write (a : Addr7) (bs : Bytes) (r : Reply WriteAnswer) : RoundTrip [Event.ofWrite a bs r] :=
  ⟨some (a, bs, r), none, none, rfl, by simp⟩

theorem roundTrip_sleep (d : Dur) : RoundTrip (sleepEvents d) := by
  by_cases h : d = 0
  · simpa [sleepEvents, h] using roundTrip_nil
  · exact ⟨none, some d, none, by simp [sleepEvents, h], by simp⟩

theorem roundTrip_sleep_read (d : Dur) (a : Addr7) (n : Nat) (r : Reply ReadAnswer) :
    RoundTrip (sleepEvents d ++ [Event.ofRead a n r]) := by
  by_cases h : d = 0
  · exact ⟨none, none, some (a, n, r), by simp [sleepEvents, h], by simp⟩
  · exact ⟨none, some d, some (a, n, r), by simp [sleepEvents, h], by simp⟩

theorem roundTrip_write_sleep (a : Addr7) (bs : Bytes) (d : Dur) : RoundTrip (.write a bs .ok :: sleepEvents d) := by
  by_cases h : d = 0
  · exact ⟨some (a, bs, .returned .ok), none, none, by simp [sleepEvents, h, Event.ofWrite], by simp⟩
  · exact ⟨some (a, bs, .returned .ok), some d, none, by simp [sleepEvents, h, Event.ofWrite], by simp⟩

theorem roundTrip_write_sleep_read (a : Addr7) (bs : Bytes) (d : Dur) (n : Nat) (r : Reply ReadAnswer) :
    RoundTrip (.write a bs .ok :: (sleepEvents d ++ [Event.ofRead a n r])) := by
  by_cases h : d = 0
  · exact ⟨some (a, bs, .returned .ok), none, some (a, n, r), by simp [sleepEvents, h, Event.ofWrite], by simp⟩
  · exact ⟨some (a, bs, .returned .ok), some d, some (a, n, r), by simp [sleepEvents, h, Event.ofWrite], by simp⟩

theorem legal_sleepEvents (a : Addr7) (d : Dur) : ∀ e ∈ sleepEvents d, Event.Legal a e := by
  by_cases h : d = 0 <;> simp [sleepEvents, h, Event.Legal]

theorem legal_write (a : Addr7) (op : Word) (args : Words) (r : Reply WriteAnswer) (h : args.length ≤ 2) :
    Event.Legal a (Event.ofWrite a (writeFrame op args) r) := by
  cases r <;> exact ⟨rfl, op, args, h, rfl⟩

theorem legal_read (a : Addr7) (n : Nat) (r : Reply ReadAnswer) (h0 : n ≠ 0) (hn : n ≤ 3) :
    Event.Legal a (Event.ofRead a (3 * n) r) := by
  cases r <;> exact ⟨rfl, n, Nat.one_le_iff_ne_zero.mpr h0, hn, rfl⟩

/-- The calls of a template are legal when its write and its read are. -/
theorem legal_write_sleep {a : Addr7} {w : Event} {es : List Event} (d : Dur) (hw : Event.Legal a w)
    (hes : ∀ e ∈ es, Event.Legal a e) : ∀ e ∈ w :: (sleepEvents d ++ es), Event.Legal a e := by
  simp only [List.mem_cons, List.mem_append]
  rintro e (rfl | he | he)
  · exact hw
  · exact legal_sleepEvents a d e he
  · exact hes e he

theorem legal_sleep_read {a : Addr7} (d : Dur) (n : Nat) (r : Reply ReadAnswer) (h0 : n ≠ 0) (hn : n ≤ 3) :
    ∀ e ∈ sleepEvents d ++ [Event.ofRead a (3 * n) r], Event.Legal a e := by
  simp only [List.mem_append, List.mem_singleton]
  rintro e (he | rfl)
  · exact legal_sleepEvents a d e he
  · exact legal_read a n r h0 hn

/-- A group fails only with ChecksumError (R134). -/
theorem decGroup_err {b0 b1 b2 : Byte} {k : Kind} (h : decGroup b0 b1 b2 = .err k) : k = .checksumError := by
  unfold decGroup at h
  split at h <;> cases h
  rfl

/-- Groups fail only with ChecksumError (R134). -/
theorem decGroups_err {bs : Bytes} {k : Kind} (h : decGroups bs = .err k) : k = .checksumError := by
  induction bs using decGroups.induct with
  | case1 b0 b1 b2 rest k' hk => simp only [decGroups, hk] at h; cases h; exact decGroup_err hk
  | case2 b0 b1 b2 rest w hw k' hk ih => simp only [decGroups, hw, hk] at h; cases h; exact ih hk
  | case3 b0 b1 b2 rest w hw ws hws => simp only [decGroups, hw, hws] at h; cases h
  | case4 bs hb => rw [decGroups.eq_2 bs hb] at h; cases h

/-- A read gives n words, or one of three kinds of error (R132 to R134). -/
def ReadResult (n : Nat) : Result Words → Prop
  | .ok ws => ws.length = n
  | .err k => n ≠ 0 ∧ k ∈ [Kind.transportError, .framingLengthError, .checksumError]

theorem readOutcome_result (n : Nat) (a : ReadAnswer) (h0 : n ≠ 0) : ReadResult n (readOutcome n a) := by
  cases a with
  | fail => exact ⟨h0, by simp⟩
  | bytes bs =>
    simp only [readOutcome, readFrame, Config.groupBytes]
    by_cases hl : bs.length = 3 * n
    · simp only [hl, ne_eq, not_true_eq_false, if_false]
      cases hd : decGroups bs with
      | ok ws => exact decGroups_length n hl hd
      | err k => exact ⟨h0, by simp [decGroups_err hd]⟩
    · simp only [hl, ne_eq, not_false_eq_true, if_true]
      exact ⟨h0, by simp⟩

/-- Everything WR_FRAME can do (R95, R132). -/
theorem State.wrFrame_can (s : State) (op : Word) (args : Words) (h : args.length ≤ 2) :
    (s.wrFrame op args).Can s fun x => ∀ k, x = .err k → k = .transportError := by
  have hl := fun r => legal_write s.addr op args r h
  refine ⟨[Event.ofWrite s.addr (writeFrame op args) (s.bus.writeReply s.addr (writeFrame op args))],
    roundTrip_write .., by simpa using hl _, ?_⟩
  rw [s.wrFrame_eq op args h]
  cases hw : s.bus.writeReply s.addr (writeFrame op args) with
  | neverReturns =>
    exact .inr ⟨[], _, .write, rfl, by simp, rfl, _, s.moved_framed op args _, rfl, rfl⟩
  | returned r =>
    refine .inl ?_
    cases r with
    | ok => exact ⟨.ok (), by simp, ⟨_, s.moved_framed op args _, rfl⟩, by simp [Event.ofWrite, Event.pendingIn]⟩
    | fail =>
      exact ⟨.err .transportError, by simp, ⟨_, s.moved_framed op args _, rfl⟩, by simp [Event.ofWrite, Event.pendingIn]⟩

/-- Everything RD_WORDS can do (R98 to R101). -/
theorem State.rdWords_can (s : State) (n : Nat) (d : Dur) (hn : n ≤ 3) (hres : s.res = #v[none, none, none]) :
    (s.rdWords n d).Can s (ReadResult n) := by
  by_cases h0 : n = 0
  · subst h0
    exact ⟨_, roundTrip_sleep d, legal_sleepEvents _ d, .inl ⟨.ok [], rfl, s.rdWords_zero d, by simp⟩⟩
  · refine ⟨_, roundTrip_sleep_read d s.addr (3 * n) ((s.bus.play (sleepEvents d)).readReply s.addr (3 * n)),
      legal_sleep_read d n _ h0 hn, ?_⟩
    cases ha : (s.bus.play (sleepEvents d)).readReply s.addr (3 * n) with
    | neverReturns => exact .inr ⟨_, _, .read, rfl, by simp, rfl, s.rdWords_waits n d h0 ha⟩
    | returned a =>
      exact .inl ⟨_, readOutcome_result n a h0, s.rdWords_answered n d a h0 hn hres ha,
        by simp [Event.ofRead, Event.pendingIn]⟩

/-- What XFER returns: n words, or an error of the write or of the read (R110). -/
def XferResult (n : Nat) : Result Words → Prop
  | .ok ws => ws.length = n
  | .err k => k = .transportError ∨ n ≠ 0 ∧ (k = .framingLengthError ∨ k = .checksumError)

/-- What the read makes of it is what XFER returns. -/
theorem readOutcome_xfer (n : Nat) (a : ReadAnswer) (h0 : n ≠ 0) : XferResult n (readOutcome n a) := by
  have h := readOutcome_result n a h0
  cases ho : readOutcome n a with
  | ok ws => rw [ho] at h; exact h
  | err k =>
    rw [ho] at h
    obtain ⟨_, hk⟩ := h
    simp only [List.mem_cons, List.not_mem_nil, or_false] at hk
    exact hk.imp_right fun hk => ⟨h0, hk⟩

/-- Everything XFER can do (R110). -/
theorem State.xfer_can (s : State) (op : Word) (args : Words) (n : Nat) (d : Dur) (h : args.length ≤ 2) (hn : n ≤ 3)
    (hres : s.res = #v[none, none, none]) : (s.xfer op args n d).Can s (XferResult n) := by
  have hl := fun r => legal_write s.addr op args r h
  cases hw : s.bus.writeReply s.addr (writeFrame op args) with
  | neverReturns =>
    exact ⟨_, roundTrip_write s.addr (writeFrame op args) .neverReturns, by simpa using hl .neverReturns,
      .inr ⟨[], _, .write, rfl, by simp, rfl, s.xfer_write_waits op args n d h hw⟩⟩
  | returned r =>
    cases r with
    | fail =>
      exact ⟨_, roundTrip_write s.addr (writeFrame op args) (.returned .fail), by simpa using hl (.returned .fail),
        .inl ⟨.err .transportError, Or.inl rfl, s.xfer_write_fails op args n d h hw,
          by simp [Event.ofWrite, Event.pendingIn]⟩⟩
    | ok =>
      by_cases h0 : n = 0
      · subst h0
        exact ⟨_, roundTrip_write_sleep .., by simpa using legal_write_sleep d (hl (.returned .ok)) (es := []) (by simp),
          .inl ⟨.ok [], rfl, s.xfer_zero op args d h hw, by simp [Event.pendingIn]⟩⟩
      · refine ⟨_, roundTrip_write_sleep_read s.addr (writeFrame op args) d (3 * n)
          ((s.bus.play (.write s.addr (writeFrame op args) .ok :: sleepEvents d)).readReply s.addr (3 * n)),
          legal_write_sleep d (hl (.returned .ok)) (by simpa using legal_read s.addr n _ h0 hn), ?_⟩
        cases ha : (s.bus.play (.write s.addr (writeFrame op args) .ok :: sleepEvents d)).readReply s.addr (3 * n) with
        | neverReturns =>
          exact .inr ⟨.write s.addr (writeFrame op args) .ok :: sleepEvents d, _, .read, rfl, by simp [Event.pendingIn],
            rfl, s.xfer_read_waits op args n d h h0 hw ha⟩
        | returned a =>
          exact .inl ⟨readOutcome n a, readOutcome_xfer n a h0, s.xfer_answered op args n d a h h0 hn hres hw ha,
            by simp [Event.ofRead, Event.pendingIn]⟩

end Sys2Proof.Machine
end

