-- ==== Sys2Proof/Laws/Exec.lean ====
section
/-! SUPPORT. For each operation of the table, which shared operations its meaning is made of, as one equation; proofs
about exec start from these and from Laws/Ops.lean. -/

namespace Sys2Proof.Machine

theorem exec_iaqInit (s : State) :
    exec .iaqInit s = operation [] (fun s => (s.commandXfer .iaqInit []).interpret asUnit) s := rfl

theorem exec_measureIaq (s : State) :
    exec .measureIaq s = operation [] (fun s => (s.commandXfer .measureIaq []).interpret asReading) s := rfl

theorem exec_measureRaw (s : State) :
    exec .measureRaw s = operation [] (fun s => (s.commandXfer .measureRaw []).interpret asRawSignals) s := rfl

theorem exec_selfTest (s : State) :
    exec .selfTest s = operation [] (fun s => (s.commandXfer .selfTest []).interpret asVerdict) s := rfl

theorem exec_getBaseline (s : State) :
    exec .getBaseline s = operation [] (fun s => (s.commandXfer .getBaseline []).interpret asBaseline) s := rfl

theorem exec_setBaseline_invalid (s : State) :
    exec (.setBaseline 0 0) s = operation [0, 0] (fun s => .raised .invalidArgumentError s) s := rfl

theorem exec_setBaseline (s : State) (eco2 tvoc : Word) (h : ¬ (eco2 = 0 ∧ tvoc = 0)) :
    exec (.setBaseline eco2 tvoc) s
      = operation [eco2, tvoc] (fun s => (s.commandXfer .setBaseline [tvoc, eco2]).interpret asUnit) s := by
  simp only [exec, execSetBaseline, h, if_false]
  rfl

theorem exec_setHumidity_invalid (s : State) (v : Rat) (h : v ≤ 0) :
    exec (.setHumidity v) s = operation [] (fun s => .raised .invalidArgumentError s) s := by
  simp only [exec, execSetHumidity, h, if_true]

theorem exec_setHumidity (s : State) (v : Rat) (h : ¬ v ≤ 0) :
    exec (.setHumidity v) s
      = operation [] (fun s => (s.commandXfer .setHumidity [humFix v]).interpret asUnit) s := by
  simp only [exec, execSetHumidity, h, if_false]

theorem exec_getSerial (s : State) :
    exec .getSerial s = operation [] (fun s => (s.commandXfer .getSerial []).interpret asSerial) s := rfl

theorem exec_softReset (s : State) :
    exec .softReset s
      = operation [] (fun s => (s.commandXfer .softReset []).swallowTransport.interpret asUnit) s := rfl

theorem exec_crc8 (s : State) (bs : Bytes) :
    exec (.crc8 bs) s = operation [] (fun s => .done (.byte (crc8 bs)) { s with acc := crc8 bs }) s := by
  simp only [exec, execCrc8, State.crcRun_eq]

theorem exec_encWord (s : State) (w : Word) :
    exec (.encWord w) s
      = operation [w] (fun s => .done (.group (hiByte w) (loByte w) (crc8 [hiByte w, loByte w]))
          { s with acc := crc8 [hiByte w, loByte w] }) s := by
  simp only [exec, execEncWord, State.crcRun_eq]

theorem exec_decGroup (s : State) (b0 b1 b2 : Byte) :
    exec (.decGroup b0 b1 b2) s
      = operation [] (fun s => (s.decGroup b0 b1 b2).andThen fun w s => .done (.word w) s) s := rfl

theorem exec_wrFrame (s : State) (op : Word) (args : Words) (h : args.length ≤ 2) :
    exec (.wrFrame op args) s
      = operation args (fun s => (s.wrFrame op args).andThen fun _ s => .done .unit s) s := by
  simp only [exec, execWrFrame, Instr.argsMalformed, Config.nArgsMax, h, if_true]

theorem exec_rdWords (s : State) (n : Nat) (d : Dur) (h : n ≤ 3) :
    exec (.rdWords n d) s = operation [] (fun s => (s.rdWords n d).andThen fun ws s => .done (.words ws) s) s := by
  simp only [exec, execRdWords, Instr.countMalformed, Config.nWordsMax, h, if_true]

theorem exec_xfer (s : State) (op : Word) (args : Words) (n : Nat) (d : Dur) (ha : args.length ≤ 2) (hn : n ≤ 3) :
    exec (.xfer op args n d) s
      = operation args (fun s => (s.xfer op args n d).andThen fun ws s => .done (.words ws) s) s := by
  simp only [exec, execXfer, Instr.argsMalformed, Instr.countMalformed, Config.nArgsMax, Config.nWordsMax, ha, hn,
    if_true, Option.or]

theorem Run.waiting_andThen {α β : Type} {r : Run α} {t : State} (f : α → State → Run β) (h : r = .waiting t) :
    r.andThen f = .waiting t := by rw [h]; rfl

/-- Every operation with a row of `Instr.transfer` is an operation of XFER's template: whenever XFER of that row is left
waiting, so is the operation, in the same state (R110, R111, R175). -/
theorem exec_transfer_waits (i : Instr) (s : State) (x : Transfer) (hw : i.WellFormed)
    (hx : i.transfer s.delays = some x) :
    x.args.length ≤ 2 ∧ x.count ≤ 3 ∧ ∃ args body, exec i s = operation args body s ∧
      ∀ t, (s.begin args).xfer x.opcode x.args x.count x.delay = .waiting t → body (s.begin args) = .waiting t := by
  cases i with
  | setBaseline e v =>
    simp only [Instr.transfer] at hx; split at hx
    · cases hx
    · cases hx
      exact ⟨by simp, by simp, _, _, exec_setBaseline s e v ‹_›, fun t h => Run.waiting_andThen _ h⟩
  | setHumidity v =>
    simp only [Instr.transfer] at hx; split at hx
    · cases hx
    · cases hx
      exact ⟨by simp, by simp, _, _, exec_setHumidity s v ‹_›, fun t h => Run.waiting_andThen _ h⟩
  | softReset =>
    cases hx
    refine ⟨by simp, by simp, _, _, exec_softReset s, fun t h => Run.waiting_andThen _ ?_⟩
    have h : (s.begin []).commandXfer .softReset [] = .waiting t := h
    rw [h]; rfl
  | wrFrame op args =>
    cases hx
    have ha : args.length ≤ 2 := by
      by_contra hc
      simp [Instr.WellFormed, Instr.malformed, Instr.argsMalformed, Config.nArgsMax, hc] at hw
    refine ⟨ha, by simp, _, _, exec_wrFrame s op args ha, fun t h => Run.waiting_andThen _ ?_⟩
    unfold State.xfer at h
    cases hr : (s.begin args).wrFrame op args with
    | waiting u => rw [hr] at h; simpa [Run.andThen] using h
    | raised k u => rw [hr] at h; cases h
    | done v u => rw [hr] at h; cases h
  | xfer op args n d =>
    cases hx
    have ha : args.length ≤ 2 := by
      by_contra hc
      simp [Instr.WellFormed, Instr.malformed, Instr.argsMalformed, Config.nArgsMax, hc] at hw
    have hn : n ≤ 3 := by
      by_contra hc
      simp [Instr.WellFormed, Instr.malformed, Instr.countMalformed, Instr.argsMalformed, Config.nArgsMax,
        Config.nWordsMax, hc, ha] at hw
    exact ⟨ha, hn, _, _, exec_xfer s op args n d ha hn, fun t h => Run.waiting_andThen _ h⟩
  | iaqInit => cases hx; exact ⟨by simp, by simp, _, _, exec_iaqInit s, fun t h => Run.waiting_andThen _ h⟩
  | measureIaq => cases hx; exact ⟨by simp, by simp, _, _, exec_measureIaq s, fun t h => Run.waiting_andThen _ h⟩
  | measureRaw => cases hx; exact ⟨by simp, by simp, _, _, exec_measureRaw s, fun t h => Run.waiting_andThen _ h⟩
  | selfTest => cases hx; exact ⟨by simp, by simp, _, _, exec_selfTest s, fun t h => Run.waiting_andThen _ h⟩
  | getBaseline => cases hx; exact ⟨by simp, by simp, _, _, exec_getBaseline s, fun t h => Run.waiting_andThen _ h⟩
  | getSerial => cases hx; exact ⟨by simp, by simp, _, _, exec_getSerial s, fun t h => Run.waiting_andThen _ h⟩
  | _ => cases hx

end Sys2Proof.Machine
end

