-- ==== Sys2Proof/Laws/PerInstr.lean ====
section
/-! SUPPORT. A statement made per operation: the request of an operation is the request of no other, well-formed or not
(30_encoding.md R56, R62: the select codes are pairwise distinct, and the operands stand in the request whole). -/

namespace Sys2Proof.Laws.Unambiguous

/-- Whatever encodes as `i` does is `i`. -/
def Statement (i : Instr) : Prop := ∀ j : Instr, encode j = encode i → j = i

theorem iaqInit : Statement .iaqInit := by
  intro j h; cases j <;> simp_all [encode]

theorem measureIaq : Statement .measureIaq := by
  intro j h; cases j <;> simp_all [encode]

theorem measureRaw : Statement .measureRaw := by
  intro j h; cases j <;> simp_all [encode]

theorem selfTest : Statement .selfTest := by
  intro j h; cases j <;> simp_all [encode]

theorem getBaseline : Statement .getBaseline := by
  intro j h; cases j <;> simp_all [encode]

theorem setBaseline (eco2 tvoc : Word) : Statement (.setBaseline eco2 tvoc) := by
  intro j h; cases j <;> simp_all [encode]

theorem setHumidity (v : Rat) : Statement (.setHumidity v) := by
  intro j h; cases j <;> simp_all [encode]

theorem getSerial : Statement .getSerial := by
  intro j h; cases j <;> simp_all [encode]

theorem softReset : Statement .softReset := by
  intro j h; cases j <;> simp_all [encode]

theorem crc8 (bs : Bytes) : Statement (.crc8 bs) := by
  intro j h; cases j <;> simp_all [encode]

theorem encWord (w : Word) : Statement (.encWord w) := by
  intro j h; cases j <;> simp_all [encode]

theorem decGroup (b0 b1 b2 : Byte) : Statement (.decGroup b0 b1 b2) := by
  intro j h; cases j <;> simp_all [encode]

theorem wrFrame (op : Word) (args : Words) : Statement (.wrFrame op args) := by
  intro j h; cases j <;> simp_all [encode]

theorem rdWords (n : Nat) (d : Dur) : Statement (.rdWords n d) := by
  intro j h; cases j <;> simp_all [encode]

theorem xfer (op : Word) (args : Words) (n : Nat) (d : Dur) : Statement (.xfer op args n d) := by
  intro j h; cases j <;> simp_all [encode]

end Sys2Proof.Laws.Unambiguous
end

