-- ==== Sys2Proof/Tests/Slice0.lean ====
section
/-! SUPPORT. The model's own tests.  Expected values are the spec's: the encodings of 30_encoding.md R56 and R62, and the
vectors and worked examples of 95_test_vectors.md and of the operation rules.  After them, for each statement of
Obligations.lean that has hypotheses, concrete data that meet them all. -/

namespace Sys2Proof.Tests
open Sys2Proof.Machine

/-! ### Helpers -/

/-- The machine after reset with a bus script (95_test_vectors.md section 3). -/
def scripted (ws : List (Reply WriteAnswer)) (rs : List (Reply ReadAnswer)) : State :=
  { State.reset with bus := { State.reset.bus with writeReplies := ws, readReplies := rs } }

/-- A script of one write that succeeds and one read that returns `bs`. -/
def answering (bs : Bytes) : State := scripted [.returned .ok] [.returned (.bytes bs)]

/-- A script of one write with the answer `r`. -/
def writing (r : WriteAnswer) : State := scripted [.returned r] []

/-- A script of one read with the answer `a`. -/
def reading (a : ReadAnswer) : State := scripted [] [.returned a]

def nextState : Host.Outcome State Fault Refusal → Option State
  | .next t => some t
  | .fault _ => none
  | .refused _ => none

/-- What the caller gets from an outcome, and the events of the history. -/
def seen (o : Host.Outcome State Fault Refusal) : Option (Option (Result Value) × List Event) :=
  (nextState o).map fun t => (t.result, t.bus.history)

/-! ### WellFormed: an ill-formed term for each check (R96, R101) -/

theorem test_wf_too_many_arguments : (Instr.wrFrame 0x2003 [1, 2, 3]).malformed = some .tooManyArguments := by decide
theorem test_wf_too_many_words : (Instr.rdWords 4 0).malformed = some .tooManyWords := by decide
theorem test_wf_xfer_arguments : (Instr.xfer 0 [1, 2, 3] 3 0).malformed = some .tooManyArguments := by decide
theorem test_wf_xfer_words : (Instr.xfer 0 [1, 2] 4 0).malformed = some .tooManyWords := by decide
theorem test_wf_limits_pass : (Instr.xfer 0xABCD [1, 2] 3 0).WellFormed := by decide

/-! ### Decode: one word per operation, its bits written out from the table -/

theorem test_decode_iaqInit : decodeTableWord 16 0b0010000000000011 = some .iaqInit := by decide
theorem test_decode_measureIaq : decodeTableWord 16 0b0010000000001000 = some .measureIaq := by decide
theorem test_decode_measureRaw : decodeTableWord 16 0b0010000001010000 = some .measureRaw := by decide
theorem test_decode_selfTest : decodeTableWord 16 0b0010000000110010 = some .selfTest := by decide
theorem test_decode_getBaseline : decodeTableWord 16 0b0010000000010101 = some .getBaseline := by decide
theorem test_decode_setBaseline : decodeTableWord 16 0b0010000000011110 = some (.setBaseline 0 0) := by decide
theorem test_decode_setHumidity : decodeTableWord 16 0b0010000001100001 = some (.setHumidity 0) := by decide
theorem test_decode_getSerial : decodeTableWord 16 0b0011011010000010 = some .getSerial := by decide
theorem test_decode_softReset : decodeTableWord 16 0b0000000000000110 = some .softReset := by decide
theorem test_decode_crc8 : decodeTableWord 8 0b0000 = some (.crc8 []) := by decide
theorem test_decode_encWord : decodeTableWord 8 0b0001 = some (.encWord 0) := by decide
theorem test_decode_decGroup : decodeTableWord 8 0b0010 = some (.decGroup 0 0 0) := by decide
theorem test_decode_wrFrame : decodeTableWord 8 0b0011 = some (.wrFrame 0 []) := by decide
theorem test_decode_rdWords : decodeTableWord 8 0b0100 = some (.rdWords 0 0) := by decide
theorem test_decode_xfer : decodeTableWord 8 0b0101 = some (.xfer 0 [] 0 0) := by decide

theorem test_decode_operands :
    decode ⟨.command 0x201E, .pair 100 200⟩ = .ok (.setBaseline 100 200)
      ∧ decode ⟨.block 0x5, .transfer 0x2008 [] 2 15⟩ = .ok (.xfer 0x2008 [] 2 15) := by decide

theorem test_decode_rejects :
    decode ⟨.block 0x6, .empty⟩ = .error (.reservedSelect 0x6)
      ∧ decode ⟨.command 0x2002, .empty⟩ = .error (.unknownOpcode 0x2002)
      ∧ decode ⟨.block 0x1, .empty⟩ = .error .wrongOperands
      ∧ decode ⟨.block 0x4, .read 4 0⟩ = .error (.malformed .tooManyWords) := by decide

/-! ### The operations: the vectors of 95_test_vectors.md -/

theorem test_table_word_runs_after_reset :
    (seen (step (State.reset.withFetchWord 8 0x0))) = some (some (.ok (.byte 0xFF)), []) := by decide

set_option maxRecDepth 20000

/-- 2.1. -/
theorem test_crc8 : seen (exec (.crc8 [0xBE, 0xEF]) State.reset) = some (some (.ok (.byte 0x92)), []) := by decide
theorem test_crc8_long :
    crc8 [0x31, 0x32, 0x33, 0x34, 0x35, 0x36, 0x37, 0x38, 0x39] = 0xF7 := by decide

/-- 2.2. -/
theorem test_encWord :
    seen (exec (.encWord 0x8CD2) State.reset) = some (some (.ok (.group 0x8C 0xD2 0x70)), []) := by decide
theorem test_encWord_zero_checksum :
    seen (exec (.encWord 0xFF00) State.reset) = some (some (.ok (.group 0xFF 0x00 0x00)), []) := by decide

/-- 2.2, 2.3. -/
theorem test_decGroup :
    seen (exec (.decGroup 0x01 0x90 0x4C) State.reset) = some (some (.ok (.word 0x0190)), []) := by decide
theorem test_decGroup_stuck_low :
    seen (exec (.decGroup 0x00 0x00 0x00) State.reset) = some (some (.err .checksumError), []) := by decide

/-- 2.4. -/
theorem test_wrFrame :
    seen (exec (.wrFrame 0x201E [0x00C8, 0x0064]) (writing .ok))
      = some (some (.ok .unit), [.write 0x58 [0x20, 0x1E, 0x00, 0xC8, 0x7F, 0x00, 0x64, 0xFE] .ok]) := by decide
theorem test_wrFrame_fails :
    seen (exec (.wrFrame 0xABCD [0xBEEF]) (writing .fail))
      = some (some (.err .transportError), [.write 0x58 [0xAB, 0xCD, 0xBE, 0xEF, 0x92] .fail]) := by decide
theorem test_writeFrame_of_three :
    writeFrame 0x2003 [1, 2, 3] = [0x20, 0x03, 0x00, 0x01, 0xB0, 0x00, 0x02, 0xE3, 0x00, 0x03, 0xD2] := by decide

/-- 2.5. -/
theorem test_rdWords :
    seen (exec (.rdWords 2 15) (reading (.bytes [0x01, 0x90, 0x4C, 0x00, 0x09, 0x09])))
      = some (some (.ok (.words [0x0190, 0x0009])),
        [.sleep 15, .read 0x58 6 (.bytes [0x01, 0x90, 0x4C, 0x00, 0x09, 0x09])]) := by decide
theorem test_rdWords_length_before_checksum :
    seen (exec (.rdWords 2 0) (reading (.bytes [0x01, 0x90, 0x4D, 0x00, 0x09])))
      = some (some (.err .framingLengthError), [.read 0x58 6 (.bytes [0x01, 0x90, 0x4D, 0x00, 0x09])]) := by decide

/-- R110. -/
theorem test_xfer :
    seen (exec (.xfer 0x3682 [] 3 1) (answering [0x00, 0x00, 0x81, 0x01, 0xA2, 0xEB, 0xB3, 0xC4, 0xBE]))
      = some (some (.ok (.words [0x0000, 0x01A2, 0xB3C4])), [.write 0x58 [0x36, 0x82] .ok, .sleep 1,
        .read 0x58 9 (.bytes [0x00, 0x00, 0x81, 0x01, 0xA2, 0xEB, 0xB3, 0xC4, 0xBE])]) := by decide
theorem test_xfer_failed_write_ends :
    seen (exec (.xfer 0x2008 [] 2 15) (scripted [.returned .fail] [.returned .fail]))
      = some (some (.err .transportError), [.write 0x58 [0x20, 0x08] .fail]) := by decide

/-- 2.6 and the worked examples of R112 to R120. -/
theorem test_iaqInit :
    seen (exec .iaqInit (writing .ok)) = some (some (.ok .unit), [.write 0x58 [0x20, 0x03] .ok, .sleep 10]) := by decide
theorem test_measureIaq :
    seen (exec .measureIaq (answering [0x01, 0x90, 0x4C, 0x00, 0x09, 0x09]))
      = some (some (.ok (.reading 400 9)), [.write 0x58 [0x20, 0x08] .ok, .sleep 15,
        .read 0x58 6 (.bytes [0x01, 0x90, 0x4C, 0x00, 0x09, 0x09])]) := by decide
theorem test_measureIaq_second_group_bad :
    seen (exec .measureIaq (answering [0x01, 0x90, 0x4C, 0x00, 0x09, 0x08]))
      = some (some (.err .checksumError), [.write 0x58 [0x20, 0x08] .ok, .sleep 15,
        .read 0x58 6 (.bytes [0x01, 0x90, 0x4C, 0x00, 0x09, 0x08])]) := by decide
theorem test_measureRaw :
    seen (exec .measureRaw (answering [0x34, 0x56, 0x68, 0x4A, 0x1B, 0x4F]))
      = some (some (.ok (.rawSignals 0x3456 0x4A1B)), [.write 0x58 [0x20, 0x50] .ok, .sleep 20,
        .read 0x58 6 (.bytes [0x34, 0x56, 0x68, 0x4A, 0x1B, 0x4F])]) := by decide
theorem test_selfTest :
    seen (exec .selfTest (answering [0xD4, 0x00, 0xC6]))
      = some (some (.ok (.verdict true)), [.write 0x58 [0x20, 0x32] .ok, .sleep 200,
        .read 0x58 3 (.bytes [0xD4, 0x00, 0xC6])]) := by decide
theorem test_selfTest_no_pass :
    (seen (exec .selfTest (answering [0xD4, 0x01, 0xF7]))).map (·.1) = some (some (.ok (.verdict false))) := by decide
theorem test_getBaseline :
    seen (exec .getBaseline (answering [0x00, 0xC8, 0x7F, 0x00, 0x64, 0xFE]))
      = some (some (.ok (.baseline 100 200)), [.write 0x58 [0x20, 0x15] .ok, .sleep 15,
        .read 0x58 6 (.bytes [0x00, 0xC8, 0x7F, 0x00, 0x64, 0xFE])]) := by decide
theorem test_setBaseline :
    seen (exec (.setBaseline 100 200) (writing .ok))
      = some (some (.ok .unit), [.write 0x58 [0x20, 0x1E, 0x00, 0xC8, 0x7F, 0x00, 0x64, 0xFE] .ok]) := by decide
theorem test_setBaseline_one_zero :
    seen (exec (.setBaseline 0 5) (writing .ok))
      = some (some (.ok .unit), [.write 0x58 [0x20, 0x1E, 0x00, 0x05, 0x74, 0x00, 0x00, 0x81] .ok]) := by decide
theorem test_setHumidity :
    seen (exec (.setHumidity (mkRat 1157 100)) (writing .ok))
      = some (some (.ok .unit), [.write 0x58 [0x20, 0x61, 0x0B, 0x92, 0xC0] .ok]) := by decide
/-- 2.7: rounds to 65536, the mask gives 0, clamped; 0.001 rounds to 0, clamped; 300 wraps. -/
theorem test_humFix :
    humFix (mkRat 255999 1000) = 1 ∧ humFix (mkRat 1 1000) = 1 ∧ humFix 300 = 0x2C00 ∧ humFix 10 = 2560
      ∧ humFix (mkRat 25599 100) = 0xFFFD := by decide
theorem test_getSerial :
    (seen (exec .getSerial (answering [0x12, 0x34, 0x37, 0x00, 0x00, 0x81, 0x00, 0x01, 0xB0]))).map (·.1)
      = some (some (.ok (.serial 0x123400000001))) := by decide
theorem test_softReset_swallows :
    seen (exec .softReset (writing .fail)) = some (some (.ok .unit), [.write 0x58 [0x00, 0x06] .fail]) := by decide

/-- R175: a reset whose write never returns is no success. -/
theorem test_softReset_hung : seen (exec .softReset (scripted [.neverReturns] [])) = some (none, [.writePending 0x58 [0x00, 0x06]]) := by
  decide

/-! ### Witnesses: data that meet the hypotheses of each statement -/

/-- A write that never returns. -/
def hungWriter : State := scripted [.neverReturns] []
/-- A read that never returns. -/
def hungReader : State := scripted [] [.neverReturns]
/-- A write that succeeds, then a read that never returns. -/
def hungAnswer : State := scripted [.returned .ok] [.neverReturns]

/-- A state between operations, with a past and the caller's next request. -/
def used : State :=
  { answering [0x01, 0x90, 0x4C, 0x00, 0x09, 0x09] with
    acc := 0x35, txbuf := [1], rxbuf := [2], result := some (.err .checksumError), freeIndex := 7,
    requests := [⟨.command 0x2008, .empty⟩] }

theorem witness_EmptySequenceGivesInitialValue : State.reset.phase = .idle := rfl
theorem witness_Crc8CompletesWithTheChecksum : used.phase = .idle := rfl
theorem witness_ChecksumIsAffine : ([0xBE, 0xEF] : Bytes).length = ([0x01, 0x90] : Bytes).length := rfl
theorem witness_EncWordReturnsTheGroup : used.phase = .idle := rfl
theorem witness_DecGroupChecksAndAssembles :
    State.reset.phase = .idle ∧ crc8 [0xBE, 0xEF] = 0x92 ∧ crc8 [0xBE, 0xEF] ≠ 0x93 := by decide
theorem witness_WordRoundTrip_forth :
    ∃ t, exec (.encWord 0xBEEF) State.reset = .next t ∧ t.result = some (.ok (.group 0xBE 0xEF 0x92))
      ∧ used.phase = .idle := ⟨_, rfl, by decide, rfl⟩
theorem witness_WordRoundTrip_back :
    ∃ t, exec (.decGroup 0xBE 0xEF 0x92) State.reset = .next t ∧ t.result = some (.ok (.word 0xBEEF)) :=
  ⟨_, rfl, by decide⟩
theorem witness_UpToThreeBitErrorsAreDetected :
    (([23] : List (Fin 24)).Nodup ∧ 1 ≤ ([23] : List (Fin 24)).length ∧ ([23] : List (Fin 24)).length ≤ 3)
      ∧ ([16, 8, 0] : List (Fin 24)).Nodup ∧ 1 ≤ ([16, 8, 0] : List (Fin 24)).length
      ∧ ([16, 8, 0] : List (Fin 24)).length ≤ 3 := by decide
theorem witness_WriteFrameLayout : 1 < ([0x00C8, 0x0064] : Words).length := by decide
theorem witness_WriteFrameReadsBack :
    ([] : Words).length = Command.iaqInit.nArgs ∧ ([0x0A00] : Words).length = Command.setHumidity.nArgs
      ∧ ([0x00C8, 0x0064] : Words).length = Command.setBaseline.nArgs := by decide
theorem witness_WrFrameMakesOneWrite_ok :
    (writing .ok).phase = .idle ∧ ([1, 2] : Words).length ≤ 2
      ∧ (writing .ok).bus.writeReply (writing .ok).addr (writeFrame 0xABCD [1, 2]) = .returned .ok := by decide
theorem witness_WrFrameMakesOneWrite_fail :
    (writing .fail).phase = .idle ∧ ([] : Words).length ≤ 2
      ∧ (writing .fail).bus.writeReply (writing .fail).addr (writeFrame 0xABCD []) = .returned .fail := by decide
theorem witness_PortRefusesTooManyWords :
    2 < ([1, 2, 3] : Words).length ∧ 3 < 4 ∧ ([1, 2] : Words).length ≤ 2 := by decide
theorem witness_RdWordsVerifiesTheRead_one :
    (reading .fail).phase = .idle ∧ 1 ≤ 1 ∧ 1 ≤ 3
      ∧ ((reading .fail).bus.play (sleepEvents 0)).readReply 0x58 (3 * 1) = .returned .fail := by decide
theorem witness_RdWordsVerifiesTheRead_three :
    (reading (.bytes [1])).phase = .idle ∧ 1 ≤ 3 ∧ 3 ≤ 3
      ∧ ((reading (.bytes [1])).bus.play (sleepEvents 1)).readReply (reading (.bytes [1])).addr (3 * 3)
        = .returned (.bytes [1]) := by decide
theorem witness_RdWordsOfNoneTakesTheDelayOnly : used.phase = .idle := rfl
theorem witness_LengthMismatchDecodesNothing_shorter :
    (reading (.bytes [0xBE, 0xEF, 0x92])).phase = .idle ∧ 1 ≤ 2 ∧ 2 ≤ 3
      ∧ ((reading (.bytes [0xBE, 0xEF, 0x92])).bus.play (sleepEvents 15)).readReply 0x58 (3 * 2)
        = .returned (.bytes [0xBE, 0xEF, 0x92])
      ∧ ([0xBE, 0xEF, 0x92] : Bytes).length ≠ 3 * 2 := by decide
theorem witness_LengthMismatchDecodesNothing_longer :
    (reading (.bytes [0xBE, 0xEF, 0x92, 0])).phase = .idle ∧ 1 ≤ 1 ∧ 1 ≤ 3
      ∧ ((reading (.bytes [0xBE, 0xEF, 0x92, 0])).bus.play (sleepEvents 0)).readReply 0x58 (3 * 1)
        = .returned (.bytes [0xBE, 0xEF, 0x92, 0])
      ∧ ([0xBE, 0xEF, 0x92, 0] : Bytes).length ≠ 3 * 1 := by decide
theorem witness_RdWordsIsAllOrNothing_ok :
    ∃ t, exec (.rdWords 1 0) (reading (.bytes [0xBE, 0xEF, 0x92])) = .next t
      ∧ t.result = some (.ok (.words [0xBEEF])) := ⟨_, rfl, by decide⟩
theorem witness_RdWordsIsAllOrNothing_err :
    ∃ t, exec (.rdWords 1 0) (reading (.bytes [0xBE, 0xEF, 0x93])) = .next t
      ∧ t.result = some (.err .checksumError) := ⟨_, rfl, by decide⟩
theorem witness_XferWritesThenReads_fail :
    (writing .fail).phase = .idle ∧ ([1, 2] : Words).length ≤ 2 ∧ 3 ≤ 3
      ∧ (writing .fail).bus.writeReply (writing .fail).addr (writeFrame 0x201E [1, 2]) = .returned .fail := by decide
theorem witness_XferWritesThenReads_none :
    (writing .ok).phase = .idle ∧ ([] : Words).length ≤ 2 ∧ 0 ≤ 3
      ∧ (writing .ok).bus.writeReply (writing .ok).addr (writeFrame 0x2003 []) = .returned .ok := by decide
theorem witness_XferWritesThenReads_words :
    (answering [0xD4, 0x00, 0xC6]).phase = .idle ∧ ([] : Words).length ≤ 2 ∧ 3 ≤ 3 ∧ 3 ≠ 0
      ∧ (answering [0xD4, 0x00, 0xC6]).bus.writeReply 0x58 (writeFrame 0x2032 []) = .returned .ok
      ∧ ((answering [0xD4, 0x00, 0xC6]).bus.play (.write 0x58 (writeFrame 0x2032 []) .ok :: sleepEvents 200)).readReply
        0x58 (3 * 3) = .returned (.bytes [0xD4, 0x00, 0xC6]) := by decide
theorem witness_IaqInitWritesAndWaits :
    (writing .ok).phase = .idle ∧ (writing .ok).bus.writeReply (writing .ok).addr [0x20, 0x03] = .returned .ok
      ∧ (writing .fail).phase = .idle
      ∧ (writing .fail).bus.writeReply (writing .fail).addr [0x20, 0x03] = .returned .fail := by decide

/-- The two premises of a reading command's statement, for a command with the opcode bytes `frame`. -/
def AnswersWith (s : State) (frame : Bytes) (d : Dur) (ws : Words) : Prop :=
  s.phase = .idle ∧ s.bus.writeReply s.addr frame = .returned .ok
    ∧ (s.bus.play (.write s.addr frame .ok :: sleepEvents d)).readReply s.addr (3 * ws.length)
      = .returned (.bytes (ws.flatMap encGroup))

theorem witness_MeasureIaqReturnsTheReading :
    AnswersWith (answering ([0x0190, 0x0009].flatMap encGroup)) [0x20, 0x08] 15 [0x0190, 0x0009] := ⟨rfl, rfl, rfl⟩
theorem witness_MeasureRawReturnsTheSignals :
    AnswersWith (answering ([0x3456, 0x4A1B].flatMap encGroup)) [0x20, 0x50] 20 [0x3456, 0x4A1B] := ⟨rfl, rfl, rfl⟩
theorem witness_SelfTestReturnsTheVerdict_pass :
    AnswersWith (answering ([0xD400].flatMap encGroup)) [0x20, 0x32] 200 [0xD400] := ⟨rfl, rfl, rfl⟩
theorem witness_SelfTestReturnsTheVerdict_no_pass :
    AnswersWith (answering ([0xD401].flatMap encGroup)) [0x20, 0x32] 200 [0xD401] ∧ (0xD401 : Word) ≠ 0xD400 :=
  ⟨⟨rfl, rfl, rfl⟩, by decide⟩
theorem witness_GetBaselineSwapsOnRead :
    AnswersWith (answering ([0x00C8, 0x0064].flatMap encGroup)) [0x20, 0x15] 15 [0x00C8, 0x0064] := ⟨rfl, rfl, rfl⟩
theorem witness_GetSerialAssemblesBigEndian :
    AnswersWith (answering ([0, 0x01A2, 0xB3C4].flatMap encGroup)) [0x36, 0x82] 1 [0, 0x01A2, 0xB3C4] := ⟨rfl, rfl, rfl⟩
theorem witness_SetBaselineSwapsOnWrite_ok :
    (writing .ok).phase = .idle ∧ ¬ ((0 : Word) = 0 ∧ (5 : Word) = 0)
      ∧ (writing .ok).bus.writeReply (writing .ok).addr ([0x20, 0x1E] ++ encGroup 5 ++ encGroup 0) = .returned .ok := by
  decide
theorem witness_SetBaselineSwapsOnWrite_fail :
    (writing .fail).phase = .idle ∧ ¬ ((5 : Word) = 0 ∧ (0 : Word) = 0)
      ∧ (writing .fail).bus.writeReply (writing .fail).addr ([0x20, 0x1E] ++ encGroup 0 ++ encGroup 5)
        = .returned .fail := by decide
theorem witness_SetHumidityWritesTheFixedPoint :
    (writing .ok).phase = .idle ∧ 0 < mkRat 1 1000
      ∧ (writing .ok).bus.writeReply (writing .ok).addr ([0x20, 0x61] ++ encGroup (humFix (mkRat 1 1000)))
        = .returned .ok
      ∧ (writing .fail).phase = .idle
      ∧ (writing .fail).bus.writeReply (writing .fail).addr ([0x20, 0x61] ++ encGroup (humFix (mkRat 1 1000)))
        = .returned .fail := ⟨rfl, by decide, rfl, rfl, rfl⟩
/-- A tie (R124: 5/512), a value that rounds to 0, and one that rounds to 65536. -/
theorem witness_HumidityIsNearestFixedPoint : 0 < mkRat 5 512 ∧ 0 < mkRat 1 1024 ∧ 0 < (256 : Rat) := by decide
theorem witness_InvalidArgumentsNeverReachTheBus :
    used.phase = .idle ∧ (0 : Rat) ≤ 0 ∧ mkRat (-3) 2 ≤ 0 := by decide
theorem witness_InvalidArgumentsNeverReachTheBus_only :
    ∃ t, exec (.setHumidity 0) used = .next t ∧ t.result = some (.err .invalidArgumentError) := ⟨_, rfl, by decide⟩
theorem witness_SoftResetSwallowsTransportErrors :
    (writing .ok).phase = .idle ∧ (writing .ok).bus.writeReply (writing .ok).addr [0x00, 0x06] = .returned .ok
      ∧ (writing .fail).phase = .idle
      ∧ (writing .fail).bus.writeReply (writing .fail).addr [0x00, 0x06] = .returned .fail := by decide
theorem witness_ReadingCommandsRelayErrors_write :
    (Instr.getSerial, Command.getSerial) ∈ readers ∧ (writing .fail).phase = .idle
      ∧ (writing .fail).bus.writeReply (writing .fail).addr (opcodeBytes Command.getSerial.opcode)
        = .returned .fail := by decide
/-- The premises for one reading command and one answer of the read. -/
def RelaysFrom (a : ReadAnswer) : Prop :=
  let s := scripted [.returned .ok] [.returned a]
  (Instr.measureIaq, Command.measureIaq) ∈ readers ∧ s.phase = .idle
    ∧ s.bus.writeReply s.addr (opcodeBytes Command.measureIaq.opcode) = .returned .ok
    ∧ (s.bus.play (.write s.addr (opcodeBytes Command.measureIaq.opcode) .ok
        :: sleepEvents (Command.measureIaq.delay s.delays))).readReply s.addr (3 * Command.measureIaq.nReads) = .returned a
theorem witness_ReadingCommandsRelayErrors_read : RelaysFrom .fail := ⟨by decide, rfl, rfl, rfl⟩
theorem witness_ReadingCommandsRelayErrors_length :
    RelaysFrom (.bytes [0x01]) ∧ ([0x01] : Bytes).length ≠ 3 * Command.measureIaq.nReads :=
  ⟨⟨by decide, rfl, rfl, rfl⟩, by decide⟩
theorem witness_ReadingCommandsRelayErrors_checksum :
    RelaysFrom (.bytes [0, 0, 0, 0, 0, 0]) ∧ ([0, 0, 0, 0, 0, 0] : Bytes).length = 3 * Command.measureIaq.nReads
      ∧ ¬ ∃ ws : Words, ([0, 0, 0, 0, 0, 0] : Bytes) = ws.flatMap encGroup := by
  refine ⟨⟨by decide, rfl, rfl, rfl⟩, rfl, ?_⟩
  rintro ⟨_ | ⟨w, ws⟩, h⟩
  · cases h
  · simp only [List.flatMap_cons, encGroup, List.cons_append, List.nil_append, List.cons.injEq] at h
    obtain ⟨h0, h1, h2, -⟩ := h
    rw [← h0, ← h1] at h2
    exact absurd h2 (by decide)
theorem witness_BaselineOrderRoundTrips :
    ∃ t, exec (.setBaseline 100 200) (writing .ok) = .next t
      ∧ t.bus.history = (writing .ok).bus.history
        ++ (.write 0x58 [0x20, 0x1E, 0x00, 0xC8, 0x7F, 0x00, 0x64, 0xFE] .ok :: sleepEvents 0)
      ∧ AnswersWith (answering ([0x00, 0xC8, 0x7F, 0x00, 0x64, 0xFE])) [0x20, 0x15] 15 [0x00C8, 0x0064]
      ∧ ([0x00, 0xC8, 0x7F, 0x00, 0x64, 0xFE] : Bytes)
        = ([0x20, 0x1E, 0x00, 0xC8, 0x7F, 0x00, 0x64, 0xFE] : Bytes).drop 2 :=
  ⟨_, rfl, by decide, ⟨rfl, rfl, by decide⟩, rfl⟩
theorem witness_ErrorKindsAreThoseOfTheTable :
    ∃ t, exec (.decGroup 0 0 0) State.reset = .next t ∧ t.result = some (.err .checksumError) := ⟨_, rfl, by decide⟩
theorem witness_OperationsReturnOrHang :
    (∃ t, exec (.wrFrame 0 []) (writing .fail) = .next t) ∧ ∃ t, exec (.wrFrame 0 []) hungWriter = .next t :=
  ⟨⟨_, rfl⟩, ⟨_, rfl⟩⟩
theorem witness_EveryOperationIsAlwaysAvailable :
    (Instr.xfer 0xABCD [1, 2] 3 1).WellFormed ∧ used.phase = .idle := by decide
theorem witness_HungCallGivesNoResult_write :
    Instr.softReset.WellFormed ∧ hungWriter.phase = .idle
      ∧ Instr.softReset.transfer hungWriter.delays = some ⟨0x0006, [], 0, 0⟩
      ∧ hungWriter.bus.writeReply hungWriter.addr (writeFrame 0x0006 []) = .neverReturns := by decide
theorem witness_HungCallGivesNoResult_read :
    Instr.getSerial.WellFormed ∧ hungAnswer.phase = .idle
      ∧ Instr.getSerial.transfer hungAnswer.delays = some ⟨0x3682, [], 3, 1⟩
      ∧ hungAnswer.bus.writeReply hungAnswer.addr (writeFrame 0x3682 []) = .returned .ok ∧ 3 ≠ 0
      ∧ (hungAnswer.bus.play (.write hungAnswer.addr (writeFrame 0x3682 []) .ok :: sleepEvents 1)).readReply
        hungAnswer.addr (3 * 3) = .neverReturns := by decide
theorem witness_HungCallGivesNoResult_rdWords :
    hungReader.phase = .idle ∧ 1 ≤ 3 ∧ 3 ≤ 3
      ∧ (hungReader.bus.play (sleepEvents 1)).readReply hungReader.addr (3 * 3) = .neverReturns := by decide
theorem witness_OverlappingOperationsAreRefused :
    (Instr.crc8 []).WellFormed ∧ (State.reset.enter .write).phase ≠ .idle := by decide
theorem witness_StatusCodes :
    State.reset.result = none ∧ ∃ t, exec (.crc8 []) used = .next t ∧ t.result = some (.ok (.byte 0xFF)) :=
  ⟨rfl, _, rfl, by decide⟩
theorem witness_StatusCodes_errors :
    (∃ t, exec .iaqInit (writing .fail) = .next t ∧ t.result = some (.err .transportError))
      ∧ (∃ t, exec (.rdWords 1 0) (reading (.bytes [])) = .next t ∧ t.result = some (.err .framingLengthError))
      ∧ (∃ t, exec (.decGroup 0xFF 0xFF 0xFF) used = .next t ∧ t.result = some (.err .checksumError))
      ∧ ∃ t, exec (.setBaseline 0 0) used = .next t ∧ t.result = some (.err .invalidArgumentError) :=
  ⟨⟨_, rfl, by decide⟩, ⟨_, rfl, by decide⟩, ⟨_, rfl, by decide⟩, ⟨_, rfl, by decide⟩⟩
theorem witness_StepRunsTheDecodedOperation :
    used.phase = .idle ∧ used.requests = [⟨.command 0x2008, .empty⟩]
      ∧ decode ⟨.command 0x2008, .empty⟩ = .ok .measureIaq := by decide
theorem witness_NothingHappensBetweenOperations :
    State.reset.requests = [] ∧ (used.enter .read).phase ≠ .idle := by decide
theorem witness_ReservedSelectsAreRefused :
    6 ≤ (0x6 : BitVec 4).toNat ∧ 6 ≤ (0xF : BitVec 4).toNat
      ∧ ({ used with requests := [⟨.block 0xF, .empty⟩] } : State).phase = .idle := by decide
theorem witness_OnlyTheNineOpcodesAreCommands :
    (0x2002 : Word) ∉ ([0x2003, 0x2008, 0x2050, 0x2032, 0x2015, 0x201E, 0x2061, 0x3682, 0x0006] : List Word)
      ∧ ({ used with requests := [⟨.command 0x2002, .empty⟩] } : State).phase = .idle := by decide
theorem witness_DecodeAndEncodeAgree :
    (Instr.setHumidity (mkRat 5 512)).WellFormed
      ∧ decode ⟨.block 0x3, .frame 0xABCD [0xBEEF]⟩ = .ok (.wrFrame 0xABCD [0xBEEF]) := by decide
theorem witness_ConstructionIsTheReset :
    (∃ s, State.construct 3 (some 127) = .next s) ∧ 127 ≤ 127 ∧ 127 < 128 := ⟨⟨_, rfl⟩, by decide, by decide⟩
theorem witness_SlotsHoldNothingBetweenOperations :
    ∃ t, exec (.rdWords 1 0) (reading (.bytes [0xBE, 0xEF, 0x92])) = .next t ∧ t.phase = .idle := ⟨_, rfl, by decide⟩
/-- A state between operations with a request, and one that waits for a write. -/
theorem witness_EveryStepKeepsTheInvariant_between : used.Inv ∧ ∃ t, step used = .next t :=
  ⟨⟨fun _ he => (nomatch he), .inl ⟨⟨rfl, rfl, rfl⟩, fun _ he => (nomatch he)⟩⟩, _, rfl⟩
theorem witness_EveryStepKeepsTheInvariant_hung :
    ∃ s, exec (.wrFrame 0x2003 []) hungWriter = .next s ∧ s.Inv ∧ ∃ t, step s = .next t := by
  refine ⟨_, rfl, ⟨?_, .inr ⟨⟨by decide, by decide⟩, fun _ he => (nomatch he)⟩⟩, _, rfl⟩
  intro e he
  cases List.mem_singleton.mp he
  exact ⟨rfl, 0x2003, [], by decide, rfl⟩
theorem witness_EveryStepIsOneRoundTrip :
    ∃ t, step used = .next t ∧ t.bus.history = [.write 0x58 [0x20, 0x08] .ok, .sleep 15,
      .read 0x58 6 (.bytes [0x01, 0x90, 0x4C, 0x00, 0x09, 0x09])] := ⟨_, rfl, by decide⟩
theorem witness_AddressBusAndDelaysAreFixed :
    ∃ t, step { writing .ok with requests := [⟨.command 0x0006, .empty⟩] } = .next t := ⟨_, rfl⟩
/-- Two states between operations with different pasts. -/
def forgotten : State :=
  { used with
    acc := 0
    txbuf := []
    rxbuf := [9]
    result := none
    freeIndex := 0
    arg := #v[some 1, none]
    res := #v[none, some 2, none] }
theorem witness_ErrorsArisePhaseByPhase :
    ([] : Words).length ≤ 2 ∧ (2 : Nat) ≠ 0
      ∧ (writing .fail).bus.writeReply 0x58 (writeFrame 0x2008 []) = .returned .fail
      ∧ hungWriter.bus.writeReply 0x58 (writeFrame 0x2008 []) = .neverReturns
      ∧ hungAnswer.bus.writeReply 0x58 (writeFrame 0x2008 []) = .returned .ok
      ∧ (hungAnswer.bus.play (.write 0x58 (writeFrame 0x2008 []) .ok :: sleepEvents 15)).readReply 0x58 (3 * 2)
        = .neverReturns
      ∧ ((answering [1]).bus.play (.write 0x58 (writeFrame 0x2008 []) .ok :: sleepEvents 15)).readReply 0x58 (3 * 2)
        = .returned (.bytes [1]) := by decide
theorem witness_ErrorsArisePhaseByPhase_verify :
    ((answering [1, 2, 3, 4, 5, 6]).bus.play (.write 0x58 (writeFrame 0x2008 []) .ok :: sleepEvents 15)).readReply
      0x58 (3 * 2) = .returned (.bytes [1, 2, 3, 4, 5, 6])
      ∧ ([1, 2, 3, 4, 5, 6] : Bytes).length = 3 * 2 ∧ ([1] : Bytes).length ≠ 3 * 2 := by decide
theorem witness_BuffersHoldTheFrames :
    ([1, 2] : Words).length ≤ 2 ∧ 3 ≠ 0
      ∧ ((reading (.bytes [0xBE])).bus.play (sleepEvents 1)).readReply 0x58 (3 * 3) = .returned (.bytes [0xBE]) := by
  decide
theorem witness_NothingElseSurvivesAnOperation :
    SameInstance used forgotten := ⟨rfl, rfl, rfl, ⟨rfl, rfl⟩, rfl⟩

end Sys2Proof.Tests
end

section
/-! SUPPORT. Parts of an operation: the read path as one equation, what a part can do when parts are put together, and
what the caller can see of it. -/

namespace Sys2Proof.Machine

/-! ### The paths in full -/

/-- The slots hold two words, so that the write path takes no more of them (R13). -/
theorem State.wrFrame_take_two (s : State) (op : Word) (args : Words) :
    s.wrFrame op args = s.wrFrame op (args.take 2) := by
  have hl : s.loadArgs args = s.loadArgs (args.take 2) := by simp [State.loadArgs]
  simp only [State.wrFrame, hl]

/-- One group verified by the engine: the verdict of the pure function, and the checksum left in ACC (R92). -/
theorem State.decGroup_eq (s : State) (b0 b1 b2 : Byte) :
    s.decGroup b0 b1 b2 = match Machine.decGroup b0 b1 b2 with
      | .ok w => .done w { s with acc := crc8 [b0, b1] }
      | .err k => .raised k { s with acc := crc8 [b0, b1] } := by
  simp only [State.decGroup, State.crcRun_eq, Machine.decGroup]
  by_cases h : crc8 [b0, b1] = b2 <;> simp [h]

/-- The words of the groups before the first bad one (R98). -/
def leadingWords : Bytes → Words
  | b0 :: b1 :: b2 :: rest =>
    match decGroup b0 b1 b2 with
    | .ok w => w :: leadingWords rest
    | .err _ => []
  | _ => []

/-- Verifying a good first group stores its word and goes on with the rest (R98). -/
theorem State.verifyGroups_good (s : State) (g : Nat) (b0 b1 b2 : Byte) (rest : Bytes) (w : Word)
    (hw : Machine.decGroup b0 b1 b2 = .ok w) :
    State.verifyGroups g (b0 :: b1 :: b2 :: rest) s
      = State.verifyGroups (g + 1) rest ({ s with acc := crc8 [b0, b1] }.writeRes g w) := by
  simp only [State.verifyGroups, State.decGroup_eq, hw]

/-- Verifying groups changes ACC and the RES slots alone, and stores the words up to the first bad group (R98, R99). -/
theorem State.verifyGroups_frame (bs : Bytes) (g : Nat) (s : State) :
    ∃ a, State.verifyGroups g bs s = match decGroups bs with
      | .ok _ => .done () { s with acc := a, res := storeRes g (leadingWords bs) s.res }
      | .err k => .raised k { s with acc := a, res := storeRes g (leadingWords bs) s.res } := by
  induction bs using leadingWords.induct generalizing g s with
  | case1 b0 b1 b2 rest w hw ih =>
    obtain ⟨a, ha⟩ := ih (g + 1) ({ s with acc := crc8 [b0, b1] }.writeRes g w)
    refine ⟨a, ?_⟩
    rw [s.verifyGroups_good g b0 b1 b2 rest w hw, ha]
    simp only [decGroups, leadingWords, hw, storeRes]
    cases decGroups rest <;> rfl
  | case2 b0 b1 b2 rest k hk =>
    exact ⟨crc8 [b0, b1], by simp only [State.verifyGroups, State.decGroup_eq, decGroups, leadingWords, hk, storeRes]⟩
  | case3 bs h =>
    refine ⟨s.acc, ?_⟩
    rw [State.verifyGroups.eq_2 g bs s h, decGroups.eq_2 bs h, leadingWords.eq_2 bs h]
    rfl

/-- The state once the read call of the read path was made and became `r` (R98). -/
def State.readMade (s : State) (n : Nat) (d : Dur) (r : Reply ReadAnswer) : State :=
  { s with
    phase := .read
    bus := s.bus.play (sleepEvents d ++ [Event.ofRead s.addr (3 * n) r]) }

/-- The state once that call returned the bytes `bs`, which RXBUF holds (R19). -/
def State.received (s : State) (n : Nat) (d : Dur) (bs : Bytes) : State :=
  { s.readMade n d (.returned (.bytes bs)) with rxbuf := bs }

/-- The state once `bs`, of the right length, was verified; `a` is left in ACC (R98, R99). -/
def State.verified (s : State) (n : Nat) (d : Dur) (bs : Bytes) (a : Byte) : State :=
  { s.received n d bs with
    phase := .verify
    acc := a
    res := storeRes 0 (leadingWords bs) s.res }

/-- RD_WORDS by what becomes of its read (R98, R99, R175). -/
theorem State.rdWords_eq (s : State) (n : Nat) (d : Dur) (h0 : n ≠ 0) :
    ∃ a : Bytes → Byte, s.rdWords n d = match (s.bus.play (sleepEvents d)).readReply s.addr (3 * n) with
      | .neverReturns => .waiting (s.readMade n d .neverReturns)
      | .returned .fail => .raised .transportError (s.readMade n d (.returned .fail))
      | .returned (.bytes bs) =>
        if bs.length ≠ 3 * n then .raised .framingLengthError (s.received n d bs)
        else match decGroups bs with
          | .ok _ => .done (s.verified n d bs (a bs)).resWords (s.verified n d bs (a bs))
          | .err k => .raised k (s.verified n d bs (a bs)) := by
  choose a ha using fun bs => State.verifyGroups_frame bs 0 ((s.received n d bs).enter .verify)
  refine ⟨a, ?_⟩
  simp only [State.rdWords, h0, if_false, State.memRead, Config.groupBytes, State.enter_bus, State.sleep_bus,
    State.enter_addr, State.sleep_addr, Bus.afterSleep_eq_play, Bus.afterRead_eq_play, Bus.play_play]
  cases (s.bus.play (sleepEvents d)).readReply s.addr (3 * n) with
  | neverReturns => rfl
  | returned answer =>
    cases answer with
    | fail => rfl
    | bytes bs =>
      by_cases hl : bs.length = 3 * n
      · simp only [Run.ofReply, Run.andThen, hl, ne_eq, not_true_eq_false, if_false]
        generalize hs : State.enter _ Phase.verify = u
        obtain rfl : (s.received n d bs).enter .verify = u := hs
        rw [ha bs]
        cases decGroups bs <;> rfl
      · simp only [Run.ofReply, Run.andThen, hl, ne_eq, not_false_eq_true, if_true]
        rfl

end Sys2Proof.Machine
end

section
/-! SUPPORT. What a part of an operation can do and what of it the caller can tell, when parts are put together to a
meaning; and from that, once for all operations, what exec and a step can do. -/

namespace Sys2Proof.Machine

/-! ### Parts put together -/

/-- A last step that only turns the value into the caller's leaves what a part can do as it is (R139). -/
theorem Run.Can.andThen {α β : Type} {r : Run α} {s : State} {P : Result α → Prop} {Q : Result β → Prop} (f : α → β)
    (g : State → State) (hg : ∀ t, Moved t (g t) []) (hQ : ∀ x, P x → Q (x.map f)) (h : r.Can s P) :
    (r.andThen fun v t => .done (f v) (g t)).Can s Q := by
  obtain ⟨es, hrt, hl, ⟨x, hx, he, hs⟩ | ⟨fs, e, p, hes, hfs, hp, hw⟩⟩ := h
  · exact ⟨es, hrt, hl, .inl ⟨x.map f, hQ x hx, he.andThen f g hg, hs⟩⟩
  · exact ⟨es, hrt, hl, .inr ⟨fs, e, p, hes, hfs, hp, hw.andThen _⟩⟩

theorem Run.Can.weaken {α : Type} {r : Run α} {s : State} {P : Result α → Prop} (h : r.Can s P) :
    r.Can s fun _ => True := by
  obtain ⟨es, hrt, hl, ⟨x, -, he⟩ | hw⟩ := h
  · exact ⟨es, hrt, hl, .inl ⟨x, trivial, he⟩⟩
  · exact ⟨es, hrt, hl, .inr hw⟩

theorem State.moved_setAcc (s : State) (a : Byte) : Moved s { s with acc := a } [] :=
  ⟨rfl, by simp, rfl, rfl, rfl, rfl⟩

/-- A part that makes no call ends with its result. -/
theorem Run.Can.of_no_call {α : Type} {r : Run α} {s : State} {P : Result α → Prop} (x : Result α) (hx : P x)
    (h : r.Ends s [] x) : r.Can s P :=
  ⟨[], roundTrip_nil, by simp, .inl ⟨x, hx, h, settled_nil⟩⟩

/-- Swallowing a TransportError changes no call (R120, R141). -/
theorem Run.Ends.swallowTransport {r : Run Words} {s : State} {es : List Event} {x : Result Words} (h : r.Ends s es x) :
    ∃ y, r.swallowTransport.Ends s es y := by
  obtain ⟨t, hm, rfl⟩ := h
  cases x with
  | ok v => exact ⟨.ok v, t, hm, rfl⟩
  | err k =>
    cases k with
    | transportError => exact ⟨.ok [], t, hm, rfl⟩
    | framingLengthError => exact ⟨.err .framingLengthError, t, hm, rfl⟩
    | checksumError => exact ⟨.err .checksumError, t, hm, rfl⟩
    | invalidArgumentError => exact ⟨.err .invalidArgumentError, t, hm, rfl⟩

theorem Run.Waits.swallowTransport {r : Run Words} {s : State} {es : List Event} {p : Phase} (h : r.Waits s es p) :
    r.swallowTransport.Waits s es p := by
  obtain ⟨t, hm, hp, rfl⟩ := h
  exact ⟨t, hm, hp, rfl⟩

/-! ### What the caller can tell of a part -/

/-- Two runs that end the same way, in states the caller cannot tell apart. -/
inductive Run.Same {α : Type} : Run α → Run α → Prop
  | done (v : α) {s t : State} (h : SameToCaller s t) : Run.Same (.done v s) (.done v t)
  | raised (k : Kind) {s t : State} (h : SameToCaller s t) : Run.Same (.raised k s) (.raised k t)
  | waiting {s t : State} (h : SameToCaller s t) : Run.Same (.waiting s) (.waiting t)

theorem Run.Same.andThen {α β : Type} {r r' : Run α} {f : α → State → Run β} (h : r.Same r')
    (hf : ∀ v s t, SameToCaller s t → (f v s).Same (f v t)) : (r.andThen f).Same (r'.andThen f) := by
  cases h with
  | done v h => exact hf v _ _ h
  | raised k h => exact .raised k h
  | waiting h => exact .waiting h

theorem Run.Same.swallowTransport {r r' : Run Words} (h : r.Same r') :
    r.swallowTransport.Same r'.swallowTransport := by
  cases h with
  | done v h => exact .done v h
  | raised k h =>
    cases k with
    | transportError => exact .done [] h
    | framingLengthError => exact .raised _ h
    | checksumError => exact .raised _ h
    | invalidArgumentError => exact .raised _ h
  | waiting h => exact .waiting h

/-- Returning to the caller keeps two runs indistinguishable (R140). -/
theorem Run.Same.finish {r r' : Run Value} (h : r.Same r') : SameToCaller r.finish r'.finish := by
  cases h with
  | done v h => exact ⟨h.addr, h.bus, h.delays, rfl, rfl, rfl, rfl, h.requests⟩
  | raised k h => exact ⟨h.addr, h.bus, h.delays, rfl, rfl, rfl, rfl, h.requests⟩
  | waiting h => exact h

section
variable {s t : State} (h : SameToCaller s t)
include h

theorem SameToCaller.enter (p : Phase) : SameToCaller (s.enter p) (t.enter p) :=
  ⟨h.addr, h.bus, h.delays, rfl, h.arg, h.res, h.result, h.requests⟩

theorem SameToCaller.setAcc (a b : Byte) : SameToCaller { s with acc := a } { t with acc := b } :=
  ⟨h.addr, h.bus, h.delays, h.phase, h.arg, h.res, h.result, h.requests⟩

theorem SameToCaller.framed (op : Word) (args : Words) (b : Bus) :
    SameToCaller { s.framed op args with bus := b } { t.framed op args with bus := b } :=
  ⟨h.addr, rfl, h.delays, rfl, rfl, h.res, h.result, h.requests⟩

theorem SameToCaller.readMade (n : Nat) (d : Dur) (r : Reply ReadAnswer) :
    SameToCaller (s.readMade n d r) (t.readMade n d r) :=
  ⟨h.addr, by simp only [State.readMade, h.bus, h.addr], h.delays, rfl, h.arg, h.res, h.result, h.requests⟩

theorem SameToCaller.received (n : Nat) (d : Dur) (bs : Bytes) :
    SameToCaller (s.received n d bs) (t.received n d bs) :=
  ⟨h.addr, (h.readMade n d _).bus, h.delays, rfl, h.arg, h.res, h.result, h.requests⟩

theorem SameToCaller.verified (n : Nat) (d : Dur) (bs : Bytes) (a b : Byte) :
    SameToCaller (s.verified n d bs a) (t.verified n d bs b) :=
  ⟨h.addr, (h.readMade n d _).bus, h.delays, rfl, h.arg, congrArg (storeRes 0 _) h.res, h.result, h.requests⟩

/-- The write path builds its frame anew: no buffer of before is read (R95, R18). -/
theorem SameToCaller.wrFrame (op : Word) (args : Words) (ha : args.length ≤ 2) :
    (s.wrFrame op args).Same (t.wrFrame op args) := by
  rw [s.wrFrame_eq op args ha, t.wrFrame_eq op args ha, h.bus, h.addr]
  cases s.bus.writeReply s.addr (writeFrame op args) with
  | neverReturns => exact .waiting (h.framed ..)
  | returned r =>
    cases r with
    | fail => exact .raised _ (h.framed ..)
    | ok => exact .done _ (h.framed ..)

/-- The read path reads nothing but the bus (R98, R19). -/
theorem SameToCaller.rdWords (n : Nat) (d : Dur) : (s.rdWords n d).Same (t.rdWords n d) := by
  by_cases h0 : n = 0
  · subst h0
    exact .done [] ⟨h.addr, congrArg (Bus.afterSleep · d) h.bus, h.delays, rfl, h.arg, h.res, h.result, h.requests⟩
  obtain ⟨a, ha⟩ := s.rdWords_eq n d h0
  obtain ⟨b, hb⟩ := t.rdWords_eq n d h0
  rw [ha, hb, h.bus, h.addr]
  cases (s.bus.play (sleepEvents d)).readReply s.addr (3 * n) with
  | neverReturns => exact .waiting (h.readMade ..)
  | returned r =>
    cases r with
    | fail => exact .raised _ (h.readMade ..)
    | bytes bs =>
      by_cases hl : bs.length = 3 * n
      · have hv := h.verified n d bs (a bs) (b bs)
        have hw : (t.verified n d bs (b bs)).resWords = (s.verified n d bs (a bs)).resWords := by
          simp only [State.resWords, hv.res]
        simp only [hl, ne_eq, not_true_eq_false, if_false, hw]
        cases decGroups bs with
        | ok ws => exact .done _ hv
        | err k => exact .raised k hv
      · simp only [hl, ne_eq, not_false_eq_true, if_true]
        exact .raised _ (h.received ..)

theorem SameToCaller.decGroup (b0 b1 b2 : Byte) : (s.decGroup b0 b1 b2).Same (t.decGroup b0 b1 b2) := by
  rw [s.decGroup_eq, t.decGroup_eq]
  cases Machine.decGroup b0 b1 b2 with
  | ok w => exact .done w (h.setAcc ..)
  | err k => exact .raised k (h.setAcc ..)

end

/-! ### The parts the meanings are made of -/

/-- A part of an operation that, begun with empty RES slots, makes the calls of a template and no others (R44), and that
shows the caller nothing of the transient registers (R17 to R19). -/
structure TemplatePart {α : Type} (f : State → Run α) : Prop where
  can : ∀ s : State, s.res = emptyRes → (f s).Can s fun _ => True
  same : ∀ s t : State, SameToCaller s t → (f s).Same (f t)

theorem templatePart_wrFrame (op : Word) (args : Words) (ha : args.length ≤ 2) :
    TemplatePart fun s => s.wrFrame op args where
  can s _ := (s.wrFrame_can op args ha).weaken
  same _ _ h := h.wrFrame op args ha

theorem templatePart_rdWords (n : Nat) (d : Dur) (hn : n ≤ 3) : TemplatePart fun s => s.rdWords n d where
  can s hs := (s.rdWords_can n d hn hs).weaken
  same _ _ h := h.rdWords n d

theorem templatePart_xfer (op : Word) (args : Words) (n : Nat) (d : Dur) (ha : args.length ≤ 2) (hn : n ≤ 3) :
    TemplatePart fun s => s.xfer op args n d where
  can s hs := (s.xfer_can op args n d ha hn hs).weaken
  same _ _ h := (h.wrFrame op args ha).andThen fun _ _ _ h => h.rdWords n d

theorem templatePart_commandXfer (c : Command) (args : Words) (ha : args.length ≤ 2) :
    TemplatePart fun s => s.commandXfer c args where
  can s := (templatePart_xfer c.opcode args c.nReads (c.delay s.delays) ha (by cases c <;> decide)).can s
  same s t h := by
    simp only [State.commandXfer, h.delays]
    exact (templatePart_xfer c.opcode args c.nReads (c.delay s.delays) ha (by cases c <;> decide)).same s t h

theorem templatePart_decGroup (b0 b1 b2 : Byte) : TemplatePart fun s => s.decGroup b0 b1 b2 where
  can s _ := by
    refine .of_no_call (Machine.decGroup b0 b1 b2) trivial ⟨{ s with acc := crc8 [b0, b1] }, s.moved_setAcc _, ?_⟩
    rw [s.decGroup_eq]
    cases Machine.decGroup b0 b1 b2 <;> rfl
  same _ _ h := h.decGroup b0 b1 b2

/-- An operation of the Checksum Engine leaves `a` in ACC and returns (R77). -/
theorem templatePart_setAcc (v : Value) (a : Byte) : TemplatePart fun s => .done v { s with acc := a } where
  can s _ := .of_no_call (.ok v) trivial ⟨_, s.moved_setAcc a, rfl⟩
  same _ _ h := .done v (h.setAcc ..)

theorem templatePart_raised (k : Kind) : TemplatePart fun s => (.raised k s : Run Value) where
  can s _ := .of_no_call (.err k) trivial ⟨s, s.moved_setAcc s.acc, rfl⟩
  same _ _ h := .raised k h

/-- A last step that only makes the caller's value (R61). -/
theorem TemplatePart.returning {α : Type} {f : State → Run α} (h : TemplatePart f) (g : α → Value) :
    TemplatePart fun s => (f s).andThen fun v s => .done (g v) s where
  can s hs := (h.can s hs).andThen g id (fun t => t.moved_setAcc t.acc) fun _ _ => trivial
  same s t hst := (h.same s t hst).andThen fun v _ _ h => .done (g v) h

theorem TemplatePart.interpret {f : State → Run Words} (h : TemplatePart f) (g : Words → Value) :
    TemplatePart fun s => (f s).interpret g where
  can s hs :=
    (h.can s hs).andThen g (·.enter .interpret) (fun _ => ⟨rfl, by simp, rfl, rfl, rfl, rfl⟩) fun _ _ => trivial
  same s t hst := (h.same s t hst).andThen fun v _ _ h => .done (g v) (h.enter .interpret)

theorem TemplatePart.swallowTransport {f : State → Run Words} (h : TemplatePart f) :
    TemplatePart fun s => (f s).swallowTransport where
  can s hs := by
    obtain ⟨es, hrt, hl, ⟨x, -, he, hes⟩ | ⟨fs, e, p, hes, hfs, hp, hw⟩⟩ := h.can s hs
    · obtain ⟨y, hy⟩ := he.swallowTransport
      exact ⟨es, hrt, hl, .inl ⟨y, trivial, hy, hes⟩⟩
    · exact ⟨es, hrt, hl, .inr ⟨fs, e, p, hes, hfs, hp, hw.swallowTransport⟩⟩
  same s t hst := (h.same s t hst).swallowTransport

/-! ### One operation at every state -/

theorem argsMalformed_eq_none (args : Words) : Instr.argsMalformed args = none ↔ args.length ≤ 2 := by
  by_cases h : args.length ≤ 2 <;> simp [Instr.argsMalformed, Config.nArgsMax, h]

theorem countMalformed_eq_none (n : Nat) : Instr.countMalformed n = none ↔ n ≤ 3 := by
  by_cases h : n ≤ 3 <;> simp [Instr.countMalformed, Config.nWordsMax, h]

/-- An operation over a word limit is refused at every state (R96, R101). -/
theorem exec_malformed {i : Instr} {m : Malformed} (h : i.malformed = some m) (s : State) :
    exec i s = .refused (.malformed m) := by
  cases i with
  | wrFrame op args => simp only [Instr.malformed] at h; simp only [exec, execWrFrame, h]
  | rdWords n d => simp only [Instr.malformed] at h; simp only [exec, execRdWords, h]
  | xfer op args n d => simp only [Instr.malformed] at h; simp only [exec, execXfer, h]
  | _ => cases h

/-- A well-formed operation is one body issued at the port, the same at every state (D1). -/
theorem exec_eq_operation {i : Instr} (hwf : i.WellFormed) :
    ∃ args body, TemplatePart body ∧ ∀ s, exec i s = operation args body s := by
  have command := fun c (args : Words) f (ha : args.length ≤ 2) => (templatePart_commandXfer c args ha).interpret f
  cases i with
  | iaqInit => exact ⟨_, _, command .iaqInit [] asUnit (by simp), exec_iaqInit⟩
  | measureIaq => exact ⟨_, _, command .measureIaq [] asReading (by simp), exec_measureIaq⟩
  | measureRaw => exact ⟨_, _, command .measureRaw [] asRawSignals (by simp), exec_measureRaw⟩
  | selfTest => exact ⟨_, _, command .selfTest [] asVerdict (by simp), exec_selfTest⟩
  | getBaseline => exact ⟨_, _, command .getBaseline [] asBaseline (by simp), exec_getBaseline⟩
  | setBaseline eco2 tvoc =>
    by_cases h : eco2 = 0 ∧ tvoc = 0
    · obtain ⟨rfl, rfl⟩ := h
      exact ⟨_, _, templatePart_raised _, exec_setBaseline_invalid⟩
    · exact ⟨_, _, command .setBaseline [tvoc, eco2] asUnit (by simp), fun s => exec_setBaseline s eco2 tvoc h⟩
  | setHumidity v =>
    by_cases h : v ≤ 0
    · exact ⟨_, _, templatePart_raised _, fun s => exec_setHumidity_invalid s v h⟩
    · exact ⟨_, _, command .setHumidity [humFix v] asUnit (by simp), fun s => exec_setHumidity s v h⟩
  | getSerial => exact ⟨_, _, command .getSerial [] asSerial (by simp), exec_getSerial⟩
  | softReset =>
    exact ⟨_, _, (templatePart_commandXfer .softReset [] (by simp)).swallowTransport.interpret asUnit,
      exec_softReset⟩
  | crc8 bs => exact ⟨_, _, templatePart_setAcc _ _, fun s => exec_crc8 s bs⟩
  | encWord w => exact ⟨_, _, templatePart_setAcc _ _, fun s => exec_encWord s w⟩
  | decGroup b0 b1 b2 =>
    exact ⟨_, _, (templatePart_decGroup b0 b1 b2).returning .word, fun s => exec_decGroup s b0 b1 b2⟩
  | wrFrame op args =>
    have ha := (argsMalformed_eq_none args).mp hwf
    exact ⟨_, _, (templatePart_wrFrame op args ha).returning fun _ => .unit, fun s => exec_wrFrame s op args ha⟩
  | rdWords n d =>
    have hn := (countMalformed_eq_none n).mp hwf
    exact ⟨_, _, (templatePart_rdWords n d hn).returning .words, fun s => exec_rdWords s n d hn⟩
  | xfer op args n d =>
    obtain ⟨ha, hn⟩ := Option.or_eq_none_iff.mp hwf
    rw [argsMalformed_eq_none] at ha
    rw [countMalformed_eq_none] at hn
    exact ⟨_, _, (templatePart_xfer op args n d ha hn).returning .words, fun s => exec_xfer s op args n d ha hn⟩

/-! ### What exec and a step can do -/

/-- What an operation issued at `s` and left at `t` did, the calls `es`: it returned, every call returned; or it waits
in the phase of the last call, the only one that has not (R139, R175). -/
def Issued (s t : State) (es : List Event) : Prop :=
  (∃ x, Returned s t es x ∧ Settled es)
    ∨ ∃ fs e, es = fs ++ [e] ∧ Settled fs ∧ e.pendingIn = some t.phase ∧ Moved { s with result := none } t es

/-- Everything an operation can do that answers a next state (R44, R150, R175). -/
theorem exec_next {i : Instr} {s t : State} (h : exec i s = .next t) :
    s.phase = .idle ∧ ∃ es, RoundTrip es ∧ (∀ e ∈ es, e.Legal s.addr) ∧ Issued s t es := by
  cases hm : i.malformed with
  | some m => rw [exec_malformed hm s] at h; cases h
  | none =>
    obtain ⟨args, body, hb, he⟩ := exec_eq_operation hm
    rw [he s] at h
    by_cases hi : s.phase = .idle
    · obtain ⟨es, hrt, hl, ⟨x, -, hx, hes⟩ | ⟨fs, e, p, hes, hfs, hp, hw⟩⟩ := hb.can (s.begin args) rfl
      · obtain ⟨u, hu, hr⟩ := operation_ends hi hx
        cases hu.symm.trans h
        exact ⟨hi, es, hrt, hl, .inl ⟨x, hr, hes⟩⟩
      · obtain ⟨u, hu, hm, hup, -⟩ := operation_waits hi hw
        cases hu.symm.trans h
        exact ⟨hi, es, hrt, hl, .inr ⟨fs, e, hes, hfs, hp.trans (congrArg some hup.symm), hm⟩⟩
    · rw [operation_overlapping hi] at h; cases h

/-- A step that answers a next state does nothing, or issues the caller's first request (R44, R138, D1). -/
theorem step_next {s t : State} (h : step s = .next t) :
    t = s ∨ ∃ r rest i, s.requests = r :: rest ∧ decode r = .ok i ∧ exec i { s with requests := rest } = .next t := by
  unfold step portStep at h
  split at h
  · split at h
    · cases h; exact .inl rfl
    · next r rest hr =>
      unfold issue at h
      split at h
      · next i hd => exact .inr ⟨r, rest, i, hr, hd, h⟩
      · cases h
  · cases h; exact .inl rfl

/-- What an operation leaves fixed, returned or waiting (R11, R12, R16, R164). -/
theorem Issued.fixed {s t : State} {es : List Event} (h : Issued s t es) :
    t.addr = s.addr ∧ t.bus = s.bus.play es ∧ t.delays = s.delays := by
  obtain ⟨x, hr, -⟩ | ⟨fs, e, -, -, -, hm⟩ := h
  · exact ⟨hr.addr, hr.bus, hr.delays⟩
  · exact ⟨hm.addr, hm.bus, hm.delays⟩

/-- No call keeps the block waiting in IDLE (R14, R175). -/
theorem Event.pendingIn_ne_idle (e : Event) : e.pendingIn ≠ some .idle := by
  cases e <;> simp [Event.pendingIn]

/-- A block that waits is in the middle of its operation (R175). -/
theorem State.Hung.phase_ne_idle {s : State} (h : s.Hung) : s.phase ≠ .idle := by
  obtain ⟨hlast, -⟩ := h
  intro hi
  rw [hi] at hlast
  obtain ⟨e, -, he⟩ := Option.bind_eq_some_iff.mp hlast
  exact Event.pendingIn_ne_idle e he

end Sys2Proof.Machine
end

section
/-! SUPPORT. The statements of 10_state.md, settled: the invariant, noninterference, the phases, slots and buffers,
construction. -/

namespace Sys2Proof.Machine

/-! ### The invariant -/

/-- An operation begun between two operations keeps the invariant (R14, R21, R175). -/
theorem Issued.inv {s t : State} {es : List Event} (h : Issued s t es) (hs : Settled s.bus.history)
    (hold : ∀ e ∈ s.bus.history, e.Legal s.addr) (hnew : ∀ e ∈ es, e.Legal s.addr) : t.Inv := by
  obtain ⟨haddr, hbus, -⟩ := h.fixed
  have hhist : t.bus.history = s.bus.history ++ es := by rw [hbus]; rfl
  refine ⟨?_, ?_⟩
  · rw [hhist, haddr]
    exact List.forall_mem_append.mpr ⟨hold, hnew⟩
  · obtain ⟨x, hr, hes⟩ | ⟨fs, e, rfl, hfs, he, hm⟩ := h
    · exact .inl ⟨⟨hr.phase, hr.arg, hr.res⟩, by rw [hhist]; simp [hs, hes]⟩
    · rw [← List.append_assoc] at hhist
      exact .inr ⟨⟨by simp [hhist, he], hm.result⟩, by simp [hhist, hs, hfs]⟩

/-- Settles O54: a step begins between two operations, where every call has returned, and what it issues keeps the
invariant. -/
theorem everyStepKeepsTheInvariant : Obligations.EveryStepKeepsTheInvariant := by
  unfold Obligations.EveryStepKeepsTheInvariant
  intro s t hinv h
  obtain rfl | ⟨r, rest, i, -, -, he⟩ := step_next h
  · exact hinv
  obtain ⟨hidle, es, -, hnew, hissued⟩ := exec_next he
  obtain ⟨hold, ⟨-, hset⟩ | ⟨hhung, -⟩⟩ := hinv
  · exact hissued.inv hset hold hnew
  · exact absurd hidle hhung.phase_ne_idle

/-! ### Noninterference -/

/-- An operation's beginning clears the slots and the last result, and reads no other register (R13, R14). -/
theorem SameInstance.begin {s t : State} (h : SameInstance s t) (args : Words) :
    SameToCaller (s.begin args) (t.begin args) :=
  ⟨h.addr, h.bus, h.delays, rfl, rfl, rfl, rfl, h.requests⟩

/-- Settles O57: an operation is one body at every state, its beginning clears the slots and the result, and no part of
it reads a transient register it did not write. -/
theorem nothingElseSurvivesAnOperation : Obligations.NothingElseSurvivesAnOperation := by
  unfold Obligations.NothingElseSurvivesAnOperation
  intro i s t h
  cases hm : i.malformed with
  | some m => rw [exec_malformed hm s, exec_malformed hm t]; rfl
  | none =>
    obtain ⟨args, body, hb, he⟩ := exec_eq_operation hm
    obtain ⟨hs, ht⟩ := h.idle
    simp only [he, operation, hs, ht, if_true]
    exact (hb.same _ _ (h.begin args)).finish

/-! ### The phases of the template -/

/-- XFER by what becomes of its write (R110, R175). -/
theorem State.xfer_eq (s : State) (op : Word) (args : Words) (n : Nat) (d : Dur) (ha : args.length ≤ 2) :
    s.xfer op args n d
      = match s.bus.writeReply s.addr (writeFrame op args) with
        | .neverReturns =>
          .waiting { s.framed op args with bus := s.bus.play [.writePending s.addr (writeFrame op args)] }
        | .returned .fail =>
          .raised .transportError { s.framed op args with bus := s.bus.play [.write s.addr (writeFrame op args) .fail] }
        | .returned .ok =>
          State.rdWords { s.framed op args with bus := s.bus.play [.write s.addr (writeFrame op args) .ok] } n d := by
  rw [State.xfer, s.wrFrame_eq op args ha]
  cases s.bus.writeReply s.addr (writeFrame op args) with
  | neverReturns => rfl
  | returned r => cases r <;> rfl

/-- XFER, like the write path, takes no more than two argument words. -/
theorem State.xfer_take_two (s : State) (op : Word) (args : Words) (n : Nat) (d : Dur) :
    s.xfer op args n d = s.xfer op (args.take 2) n d :=
  congrArg (Run.andThen · fun _ t => t.rdWords n d) (s.wrFrame_take_two op args)

/-- How the read path of `n` words can end, by what became of its read, in which phase, and with what in RXBUF (R14,
R19, R98); of no word it ends after the delay. -/
inductive ReadEnding (n : Nat) : Reply ReadAnswer → Run Words → Prop
  | delayed {r : Reply ReadAnswer} {t : State} (h0 : n = 0) (ht : t.phase = .delay) : ReadEnding n r (.done [] t)
  | pending {t : State} (h0 : n ≠ 0) (ht : t.phase = .read) : ReadEnding n .neverReturns (.waiting t)
  | failed {t : State} (h0 : n ≠ 0) (ht : t.phase = .read) :
    ReadEnding n (.returned .fail) (.raised .transportError t)
  | wrongLength {bs : Bytes} {t : State} (h0 : n ≠ 0) (hl : bs.length ≠ 3 * n) (ht : t.phase = .read)
    (hrx : t.rxbuf = bs) : ReadEnding n (.returned (.bytes bs)) (.raised .framingLengthError t)
  | badChecksum {bs : Bytes} {t : State} (h0 : n ≠ 0) (hl : bs.length = 3 * n) (ht : t.phase = .verify)
    (hrx : t.rxbuf = bs) : ReadEnding n (.returned (.bytes bs)) (.raised .checksumError t)
  | verified {bs : Bytes} {ws : Words} {t : State} (h0 : n ≠ 0) (hl : bs.length = 3 * n) (ht : t.phase = .verify)
    (hrx : t.rxbuf = bs) : ReadEnding n (.returned (.bytes bs)) (.done ws t)

theorem State.rdWords_ending (s : State) (n : Nat) (d : Dur) :
    ReadEnding n ((s.bus.play (sleepEvents d)).readReply s.addr (3 * n)) (s.rdWords n d) := by
  by_cases h0 : n = 0
  · subst h0
    exact .delayed rfl rfl
  obtain ⟨a, ha⟩ := s.rdWords_eq n d h0
  rw [ha]
  cases (s.bus.play (sleepEvents d)).readReply s.addr (3 * n) with
  | neverReturns => exact .pending h0 rfl
  | returned r =>
    cases r with
    | fail => exact .failed h0 rfl
    | bytes bs =>
      by_cases hl : bs.length = 3 * n
      · simp only [hl, ne_eq, not_true_eq_false, if_false]
        cases hd : decGroups bs with
        | ok ws => exact .verified h0 hl rfl rfl
        | err k => cases decGroups_err hd; exact .badChecksum h0 hl rfl rfl
      · simp only [hl, ne_eq, not_false_eq_true, if_true]
        exact .wrongLength h0 hl rfl rfl

/-- The phase in which the read path leaves the template, by what became of its read (R14, R137, R175). -/
def readPhase (n : Nat) : Reply ReadAnswer → Phase
  | .neverReturns => .read
  | .returned .fail => .read
  | .returned (.bytes bs) => if bs.length = 3 * n then .verify else .read

theorem ReadEnding.phase {n : Nat} {r : Reply ReadAnswer} {run : Run Words} (h : ReadEnding n r run) (h0 : n ≠ 0) :
    run.state.phase = readPhase n r := by
  cases h with
  | delayed hn _ => exact absurd hn h0
  | pending _ ht => exact ht
  | failed _ ht => exact ht
  | wrongLength _ hl ht _ => exact ht.trans (if_neg hl).symm
  | badChecksum _ hl ht _ => exact ht.trans (if_pos hl).symm
  | verified _ hl ht _ => exact ht.trans (if_pos hl).symm

/-- The read path leaves the bytes of its read in RXBUF, however it ends (R19). -/
theorem ReadEnding.rxbuf {n : Nat} {bs : Bytes} {run : Run Words} (h : ReadEnding n (.returned (.bytes bs)) run)
    (h0 : n ≠ 0) : run.state.rxbuf = bs := by
  cases h with
  | delayed hn _ => exact absurd hn h0
  | wrongLength _ _ _ hrx => exact hrx
  | badChecksum _ _ _ hrx => exact hrx
  | verified _ _ _ hrx => exact hrx

/-- How XFER can end, and in which phase: in its write, or as its read path (R110). -/
inductive XferEnding (n : Nat) : Run Words → Prop
  | writeFailed {t : State} (ht : t.phase = .write) : XferEnding n (.raised .transportError t)
  | writePending {t : State} (ht : t.phase = .write) : XferEnding n (.waiting t)
  | read {r : Reply ReadAnswer} {run : Run Words} (h : ReadEnding n r run) : XferEnding n run

theorem State.xfer_ending (s : State) (op : Word) (args : Words) (n : Nat) (d : Dur) :
    XferEnding n (s.xfer op args n d) := by
  rw [s.xfer_take_two op args, s.xfer_eq op _ n d (List.length_take_le 2 args)]
  cases s.bus.writeReply s.addr (writeFrame op (args.take 2)) with
  | neverReturns => exact .writePending rfl
  | returned r =>
    cases r with
    | fail => exact .writeFailed rfl
    | ok => exact .read (State.rdWords_ending _ n d)

/-- XFER whose write does not succeed stays in WRITE (R137, R175). -/
theorem State.xfer_phase_of_write (s : State) (op : Word) (args : Words) (n : Nat) (d : Dur) (ha : args.length ≤ 2)
    (hw : s.bus.writeReply s.addr (writeFrame op args) ≠ .returned .ok) :
    (s.xfer op args n d).state.phase = .write := by
  rw [s.xfer_eq op args n d ha]
  cases hr : s.bus.writeReply s.addr (writeFrame op args) with
  | neverReturns => rfl
  | returned r =>
    cases r with
    | fail => rfl
    | ok => exact absurd hr hw

/-- XFER whose write succeeds leaves the template where its read path does (R110). -/
theorem State.xfer_phase_of_read (s : State) (op : Word) (args : Words) (n : Nat) (d : Dur) (ha : args.length ≤ 2)
    (hw : s.bus.writeReply s.addr (writeFrame op args) = .returned .ok) (h0 : n ≠ 0) :
    (s.xfer op args n d).state.phase = readPhase n
      ((s.bus.play (.write s.addr (writeFrame op args) .ok :: sleepEvents d)).readReply s.addr (3 * n)) := by
  rw [s.xfer_eq op args n d ha, hw, (State.rdWords_ending _ n d).phase h0, Bus.play_play]
  rfl

/-- Settles O25: by result, from the endings of the two paths; by cause, from the phase of each answer of the bus. -/
theorem errorsArisePhaseByPhase : Obligations.ErrorsArisePhaseByPhase := by
  unfold Obligations.ErrorsArisePhaseByPhase
  intro s op args n d
  refine ⟨?_, fun ha => ⟨fun hw => ?_, fun hw h0 => ?_, fun hw h0 hr => ?_, fun bs hw h0 hr => ?_⟩⟩
  · have hend := s.xfer_ending op args n d
    generalize s.xfer op args n d = run at hend
    cases hend with
    | writeFailed ht => exact .inl ht
    | writePending ht => exact .inl ht
    | read hread =>
      cases hread with
      | delayed h0 ht => exact .inl ⟨h0, ht⟩
      | pending h0 ht => exact .inr ⟨h0, ht⟩
      | failed h0 ht => exact .inr ⟨h0, ht⟩
      | wrongLength h0 _ ht _ => exact ⟨h0, ht⟩
      | badChecksum h0 _ ht _ => exact ⟨h0, ht⟩
      | verified h0 _ ht _ => exact .inr ⟨h0, ht⟩
  · exact s.xfer_phase_of_write op args n d ha (by obtain hw | hw := hw <;> simp [hw])
  · subst h0
    rw [s.xfer_eq op args 0 d ha, hw]
    rfl
  · rw [s.xfer_phase_of_read op args n d ha hw h0]
    obtain hr | hr := hr <;> rw [hr] <;> rfl
  · rw [s.xfer_phase_of_read op args n d ha hw h0, hr]
    exact ⟨fun hl => if_neg hl, fun hl => if_pos hl⟩

/-! ### Slots, buffers, construction -/

theorem State.readArg_of_empty (s : State) (h : s.arg = emptyArg) (k : Fin 2) :
    s.readArg k = .error (.emptySlot k) := by
  fin_cases k <;> simp [State.readArg, h]

theorem State.readRes_of_empty (s : State) (h : s.res = emptyRes) (k : Fin 3) :
    s.readRes k = .error (.emptySlot k) := by
  fin_cases k <;> simp [State.readRes, h]

/-- Settles O52: an operation that ends in IDLE has returned, and returning empties the slots. -/
theorem slotsHoldNothingBetweenOperations : Obligations.SlotsHoldNothingBetweenOperations := by
  unfold Obligations.SlotsHoldNothingBetweenOperations
  intro i s t h hidle
  obtain ⟨-, es, -, -, ⟨x, hr, -⟩ | ⟨fs, e, -, -, he, -⟩⟩ := exec_next h
  · exact ⟨t.readArg_of_empty hr.arg, t.readRes_of_empty hr.res⟩
  · rw [hidle] at he
    exact absurd he (Event.pendingIn_ne_idle e)

/-- Settles O56: a step does nothing or issues an operation, and an operation adds calls to the bus and nothing else. -/
theorem addressBusAndDelaysAreFixed : Obligations.AddressBusAndDelaysAreFixed := by
  unfold Obligations.AddressBusAndDelaysAreFixed
  intro s t h
  obtain rfl | ⟨r, rest, i, -, -, he⟩ := step_next h
  · exact ⟨rfl, rfl, rfl⟩
  obtain ⟨-, es, -, -, hissued⟩ := exec_next he
  obtain ⟨haddr, hbus, hdelays⟩ := hissued.fixed
  exact ⟨haddr, by rw [hbus]; rfl, hdelays⟩

/-- The write path leaves the whole frame in TXBUF, however the write ends (R18). -/
theorem State.wrFrame_txbuf (s : State) (op : Word) (args : Words) (ha : args.length ≤ 2) :
    (s.wrFrame op args).state.txbuf = writeFrame op args := by
  rw [s.wrFrame_eq op args ha]
  cases s.bus.writeReply s.addr (writeFrame op args) with
  | neverReturns => rfl
  | returned r => cases r <;> rfl

/-- Going on after a part leaves a register as it is when the part that follows does. -/
theorem Run.andThen_state {α β γ : Type} (r : Run α) (f : α → State → Run β) (g : State → γ)
    (hf : ∀ v s, g (f v s).state = g s) : g (r.andThen f).state = g r.state := by
  cases r with
  | done v s => exact hf v s
  | raised k s => rfl
  | waiting s => rfl

/-- Settles O58: the write path leaves its frame in TXBUF, which the read path does not touch, and the read path leaves
its bytes in RXBUF. -/
theorem buffersHoldTheFrames : Obligations.BuffersHoldTheFrames := by
  unfold Obligations.BuffersHoldTheFrames
  refine ⟨fun s op args n d ha => ⟨s.wrFrame_txbuf op args ha, ?_⟩, fun s n d bs h0 hr => ?_⟩
  · calc (s.xfer op args n d).state.txbuf
        = (s.wrFrame op args).state.txbuf := Run.andThen_state _ _ State.txbuf fun _ t => t.rdWords_txbuf n d
      _ = writeFrame op args := s.wrFrame_txbuf op args ha
  · have hend := s.rdWords_ending n d
    rw [hr] at hend
    exact hend.rxbuf h0

/-- Settles O51: construction by whether an address is given and whether it has seven bits. -/
theorem constructionIsTheReset : Obligations.ConstructionIsTheReset := by
  unfold Obligations.ConstructionIsTheReset
  refine ⟨?_, fun h a ha => ⟨_, if_pos (by omega)⟩, fun h a ha => if_neg (by omega), fun _ => rfl, rfl⟩
  intro h a s hs
  cases a with
  | none => cases hs; exact ⟨rfl, rfl, rfl, ⟨rfl, rfl, rfl⟩, rfl⟩
  | some n =>
    by_cases hn : n < 128
    · cases (if_pos hn).symm.trans hs
      exact ⟨Nat.mod_eq_of_lt hn, rfl, rfl, ⟨rfl, rfl, rfl⟩, rfl⟩
    · cases (if_neg hn).symm.trans hs

/-- Settles O53: right after reset the history is empty and no operation is in progress. -/
theorem invariantHoldsAtReset : Obligations.InvariantHoldsAtReset := by
  have hempty : State.reset.bus.history = [] := rfl
  exact ⟨by simp [hempty], .inl ⟨⟨rfl, rfl, rfl⟩, by simp [hempty]⟩⟩

end Sys2Proof.Machine
end

section
/-! SUPPORT. The statements of 20_memory.md, settled: the calls of a step, the layout of the write frame, what RD_WORDS
makes of its read, DEC_GROUP, and the step as the decoded operation. -/

namespace Sys2Proof.Machine

/-! ### The calls of a step -/

/-- Settles O55: a step does nothing, or issues an operation, whose calls are those of one round trip. -/
theorem everyStepIsOneRoundTrip : Obligations.EveryStepIsOneRoundTrip := by
  unfold Obligations.EveryStepIsOneRoundTrip
  intro s t h
  obtain rfl | ⟨r, rest, i, -, -, he⟩ := step_next h
  · exact ⟨[], roundTrip_nil, t.bus.play_nil.symm⟩
  · obtain ⟨-, es, hrt, -, hissued⟩ := exec_next he
    obtain ⟨-, hbus, -⟩ := hissued.fixed
    exact ⟨es, hrt, hbus⟩

/-- Settles O45: in IDLE the step takes the first request from the port and issues what it decodes to. -/
theorem stepRunsTheDecodedOperation : Obligations.StepRunsTheDecodedOperation := by
  unfold Obligations.StepRunsTheDecodedOperation
  intro s r rest i hidle hreq hdec
  calc step s = issue r { s with requests := rest } := by simp only [step, portStep, hidle, if_true, hreq]
    _ = exec i { s with requests := rest } := by simp only [issue, hdec]

/-! ### The layout of the write frame -/

/-- Group k of a sequence of groups stands at its bytes 3k to 3k + 2 (R37, R38). -/
theorem take_drop_flatMap_encGroup (ws : Words) (k : Nat) (h : k < ws.length) :
    ((ws.flatMap encGroup).drop (3 * k)).take 3 = encGroup ws[k] := by
  induction ws generalizing k with
  | nil => exact absurd h (Nat.not_lt_zero k)
  | cons w ws ih =>
    rw [List.flatMap_cons]
    cases k with
    | zero => exact List.take_left' (encGroup_length w)
    | succ k =>
      have hskip : 3 * (k + 1) = (encGroup w).length + 3 * k := by rw [encGroup_length]; omega
      rw [hskip, List.drop_length_add_append, List.getElem_cons_succ]
      exact ih k (Nat.lt_of_succ_lt_succ h)

/-- Settles O16: the opcode takes the first two bytes, and the groups follow back to back. -/
theorem writeFrameLayout : Obligations.WriteFrameLayout := by
  unfold Obligations.WriteFrameLayout
  refine fun op args => ⟨?_, List.take_left' (opcodeBytes_length op), fun k h => ?_⟩
  · rw [writeFrame, List.length_append, opcodeBytes_length, flatMap_encGroup_length]
  · rw [writeFrame, ← opcodeBytes_length op, List.drop_length_add_append]
    exact take_drop_flatMap_encGroup args k h

/-! ### Groups, encoded and decoded -/

@[simp] theorem hiByte_wordOf (hi lo : Byte) : hiByte (wordOf hi lo) = hi := BitVec.extractLsb'_append_eq_left

@[simp] theorem loByte_wordOf (hi lo : Byte) : loByte (wordOf hi lo) = lo := BitVec.extractLsb'_append_eq_right

@[simp] theorem wordOf_hiByte_loByte (w : Word) : wordOf (hiByte w) (loByte w) = w :=
  (BitVec.extractLsb'_append_extractLsb'_eq_extractLsb' rfl).trans BitVec.extractLsb'_eq_self

/-- The word of two bytes in the arithmetic of R31. -/
theorem wordOf_eq_ofNat (hi lo : Byte) : wordOf hi lo = BitVec.ofNat 16 (hi.toNat * 256 + lo.toNat) := by
  apply BitVec.eq_of_toNat_eq
  have hlt : hi.toNat * 256 + lo.toNat < 2 ^ 16 := by omega
  calc (wordOf hi lo).toNat = hi.toNat <<< 8 ||| lo.toNat := BitVec.toNat_append ..
    _ = hi.toNat <<< 8 + lo.toNat := (Nat.shiftLeft_add_eq_or_of_lt lo.isLt _).symm
    _ = hi.toNat * 256 + lo.toNat := by rw [Nat.shiftLeft_eq]
    _ = (BitVec.ofNat 16 (hi.toNat * 256 + lo.toNat)).toNat := (Nat.mod_eq_of_lt hlt).symm

/-- The group test passes when the checksums agree (R92). -/
theorem decGroup_of_crc8_eq {b0 b1 b2 : Byte} (h : crc8 [b0, b1] = b2) : decGroup b0 b1 b2 = .ok (wordOf b0 b1) :=
  if_neg (not_not.mpr h)

/-- The group test fails when they differ (R92). -/
theorem decGroup_of_crc8_ne {b0 b1 b2 : Byte} (h : crc8 [b0, b1] ≠ b2) : decGroup b0 b1 b2 = .err .checksumError :=
  if_pos h

/-- A group decodes to a word exactly when it is the group of that word (R92, R93). -/
theorem decGroup_eq_ok_iff {b0 b1 b2 : Byte} {w : Word} :
    decGroup b0 b1 b2 = .ok w ↔ encGroup w = [b0, b1, b2] := by
  constructor
  · intro h
    by_cases hc : crc8 [b0, b1] = b2
    · cases (decGroup_of_crc8_eq hc).symm.trans h
      simp [encGroup, hc]
    · cases (decGroup_of_crc8_ne hc).symm.trans h
  · intro h
    cases h
    simpa using decGroup_of_crc8_eq (b0 := hiByte w) (b1 := loByte w) rfl

/-- Groups back to back decode to their words (R93, R98). -/
theorem decGroups_flatMap_encGroup (ws : Words) : decGroups (ws.flatMap encGroup) = .ok ws := by
  induction ws with
  | nil => rfl
  | cons w ws ih =>
    have hw : decGroup (hiByte w) (loByte w) (crc8 [hiByte w, loByte w]) = .ok w := decGroup_eq_ok_iff.mpr rfl
    change decGroups (hiByte w :: loByte w :: crc8 [hiByte w, loByte w] :: ws.flatMap encGroup) = .ok (w :: ws)
    simp only [decGroups, hw, ih]

/-- A sequence of whole groups decodes to words exactly when it is their groups back to back (R37, R93). -/
theorem decGroups_eq_ok_iff {bs : Bytes} {ws : Words} (h3 : 3 ∣ bs.length) :
    decGroups bs = .ok ws ↔ bs = ws.flatMap encGroup := by
  refine ⟨fun h => ?_, fun h => h ▸ decGroups_flatMap_encGroup ws⟩
  induction bs using decGroups.induct generalizing ws with
  | case1 b0 b1 b2 rest k hk => simp only [decGroups, hk] at h; cases h
  | case2 b0 b1 b2 rest w hw k hk ih => simp only [decGroups, hw, hk] at h; cases h
  | case3 b0 b1 b2 rest w hw ws' hws ih =>
    simp only [decGroups, hw, hws] at h
    cases h
    have hrest : rest = ws'.flatMap encGroup := ih ((Nat.dvd_add_left (Nat.dvd_refl 3)).mp h3) hws
    rw [List.flatMap_cons, decGroup_eq_ok_iff.mp hw, ← hrest]
    rfl
  | case4 bs hb =>
    match bs, hb, h3 with
    | [], _, _ => cases h; rfl
    | [_], _, h3 => simp at h3
    | [_, _], _, h3 => simp at h3
    | b0 :: b1 :: b2 :: rest, hb, _ => exact absurd rfl (hb b0 b1 b2 rest)

/-! ### DEC_GROUP -/

/-- DEC_GROUP completes with the verdict of the group test (R92). -/
theorem decGroup_completes (s : State) (b0 b1 b2 : Byte) (hidle : s.phase = .idle) :
    Completes (.decGroup b0 b1 b2) s [] ((decGroup b0 b1 b2).map .word) := by
  refine .of_ends (exec_decGroup s b0 b1 b2) hidle (Run.Ends.andThen Value.word id (fun t => t.moved_setAcc t.acc) ?_)
  refine ⟨{ s.begin [] with acc := crc8 [b0, b1] }, State.moved_setAcc _ _, ?_⟩
  rw [State.decGroup_eq]
  cases decGroup b0 b1 b2 <;> rfl

/-- Settles O12: DEC_GROUP by the two verdicts of the group test. -/
theorem decGroupChecksAndAssembles : Obligations.DecGroupChecksAndAssembles := by
  unfold Obligations.DecGroupChecksAndAssembles
  intro s b0 b1 b2 hidle
  have hcomp := decGroup_completes s b0 b1 b2 hidle
  constructor
  · intro hc
    rw [decGroup_of_crc8_eq hc, wordOf_eq_ofNat] at hcomp
    exact hcomp
  · intro hc
    rw [decGroup_of_crc8_ne hc] at hcomp
    exact hcomp

/-! ### RD_WORDS -/

theorem readFrame_of_length_ne {n : Nat} {bs : Bytes} (h : bs.length ≠ 3 * n) :
    readFrame n bs = .err .framingLengthError :=
  if_pos h

theorem readFrame_of_length_eq {n : Nat} {bs : Bytes} (h : bs.length = 3 * n) : readFrame n bs = decGroups bs :=
  if_neg (not_not.mpr h)

/-- The outcome of a read is what its answer makes of it (R98, R99, R39). -/
theorem readGives_readOutcome (n : Nat) (a : ReadAnswer) : ReadGives n a (readOutcome n a) := by
  cases a with
  | fail => rfl
  | bytes bs =>
    by_cases hl : bs.length = 3 * n
    · rw [readOutcome, readFrame_of_length_eq hl]
      have hok := fun ws => decGroups_eq_ok_iff (bs := bs) (ws := ws) ⟨n, hl⟩
      cases hd : decGroups bs with
      | ok ws => exact .inr (.inl ⟨ws, decGroups_length n hl hd, (hok ws).mp hd, rfl⟩)
      | err k =>
        cases decGroups_err hd
        refine .inr (.inr ⟨hl, fun ⟨ws, hws⟩ => ?_, rfl⟩)
        cases hd.symm.trans ((hok ws).mpr hws)
    · exact .inl ⟨hl, readFrame_of_length_ne hl⟩

theorem Result.asWords_eq_map (x : Result Words) : x.asWords = x.map .words := by
  cases x <;> rfl

/-- RD_WORDS whose read the bus answers completes with the delay, the read and its outcome (R98). -/
theorem rdWords_completes (s : State) (n : Nat) (d : Dur) (a : ReadAnswer) (hidle : s.phase = .idle) (h0 : n ≠ 0)
    (hn : n ≤ 3) (ha : (s.bus.play (sleepEvents d)).readReply s.addr (3 * n) = .returned a) :
    Completes (.rdWords n d) s (sleepEvents d ++ [.read s.addr (3 * n) a]) (readOutcome n a).asWords := by
  rw [Result.asWords_eq_map]
  exact .of_ends (exec_rdWords s n d hn) hidle
    (((s.begin []).rdWords_answered n d a h0 hn rfl ha).andThen Value.words id fun t => t.moved_setAcc t.acc)

/-- Settles O20: the outcome of the one read is what the answer makes of it. -/
theorem rdWordsVerifiesTheRead : Obligations.RdWordsVerifiesTheRead := by
  unfold Obligations.RdWordsVerifiesTheRead
  intro s n d a hidle h1 hn ha
  exact ⟨readOutcome n a, readGives_readOutcome n a,
    rdWords_completes s n d a hidle (Nat.one_le_iff_ne_zero.mp h1) hn ha⟩

/-- Settles O22: the length is tested before any group, so the outcome is that of the length test. -/
theorem lengthMismatchDecodesNothing : Obligations.LengthMismatchDecodesNothing := by
  unfold Obligations.LengthMismatchDecodesNothing
  intro s n d bs hidle h1 hn ha hl
  have hcomp := rdWords_completes s n d (.bytes bs) hidle (Nat.one_le_iff_ne_zero.mp h1) hn ha
  rw [readOutcome, readFrame_of_length_ne hl] at hcomp
  exact hcomp

end Sys2Proof.Machine
end

section
/-! SUPPORT. The decoder and the encoder (30_encoding.md R56, R62, R63): what each code selects, and that a request
decodes exactly when it is the encoding of a well-formed operation. -/

namespace Sys2Proof

/-! ### The tables -/

@[simp] theorem Command.ofOpcode_opcode (c : Command) : Command.ofOpcode c.opcode = some c := by
  cases c <;> rfl

/-- An opcode selects the command in whose row it stands, matched on all 16 bits (R56). -/
theorem Command.ofOpcode_eq_some_iff {op : Word} {c : Command} : Command.ofOpcode op = some c ↔ c.opcode = op :=
  ⟨fun h => beq_iff_eq.mp (List.find?_some (p := fun c : Command => c.opcode == op) h), fun h => h ▸ c.ofOpcode_opcode⟩

/-- An opcode that stands in no row selects no command (R58). -/
theorem Command.ofOpcode_eq_none_iff {op : Word} :
    Command.ofOpcode op = none ↔ op ∉ Command.all.map Command.opcode := by
  simp [Command.ofOpcode]

@[simp] theorem BlockOp.ofOpsel_opsel (b : BlockOp) : BlockOp.ofOpsel b.opsel = some b := by
  cases b <;> rfl

/-- A select code selects the operation in whose row it stands (R62). -/
theorem BlockOp.ofOpsel_eq_some_iff {sel : BitVec 4} {b : BlockOp} : BlockOp.ofOpsel sel = some b ↔ b.opsel = sel :=
  ⟨fun h => beq_iff_eq.mp (List.find?_some (p := fun b : BlockOp => b.opsel == sel) h), fun h => h ▸ b.ofOpsel_opsel⟩

/-- The codes 0x6 to 0xF are the reserved ones (R63). -/
theorem BlockOp.ofOpsel_eq_none_iff : ∀ {sel : BitVec 4}, BlockOp.ofOpsel sel = none ↔ 6 ≤ sel.toNat := by
  decide

/-! ### A request and its operation -/

/-- What a command and its operands decode to is encoded by the command's row: of the operand shapes, each command takes
one (R56). -/
theorem encode_of_decodeCommand {c : Command} {o : Operands} {i : Instr} (h : decodeCommand c o = .ok i) :
    encode i = ⟨.command c.opcode, o⟩ := by
  cases c
  all_goals
    cases o <;> cases h
    rfl

/-- The same of an operation of the block (R61, R62). -/
theorem encode_of_decodeBlock {b : BlockOp} {o : Operands} {i : Instr} (h : decodeBlock b o = .ok i) :
    encode i = ⟨.block b.opsel, o⟩ := by
  cases b
  all_goals
    cases o <;> cases h
    rfl

theorem decodeSelect_encode (i : Instr) : decodeSelect (encode i) = .ok i := by
  cases i <;> rfl

/-- Before the length checks, a request selects the operation of which it is the encoding (R56, R62). -/
theorem decodeSelect_eq_ok_iff {r : Request} {i : Instr} : decodeSelect r = .ok i ↔ encode i = r := by
  refine ⟨fun h => ?_, fun h => h ▸ decodeSelect_encode i⟩
  obtain ⟨sel, o⟩ := r
  cases sel with
  | command op =>
    cases hc : Command.ofOpcode op with
    | none => simp only [decodeSelect, hc] at h; cases h
    | some c =>
      simp only [decodeSelect, hc] at h
      rw [encode_of_decodeCommand h, Command.ofOpcode_eq_some_iff.mp hc]
  | block sel =>
    cases hb : BlockOp.ofOpsel sel with
    | none => simp only [decodeSelect, hb] at h; cases h
    | some b =>
      simp only [decodeSelect, hb] at h
      rw [encode_of_decodeBlock h, BlockOp.ofOpsel_eq_some_iff.mp hb]

/-- A request decodes exactly to the well-formed operation of which it is the encoding (R61, R96, R101). -/
theorem decode_eq_ok_iff {r : Request} {i : Instr} : decode r = .ok i ↔ encode i = r ∧ i.WellFormed := by
  rw [← decodeSelect_eq_ok_iff]
  cases hd : decodeSelect r with
  | error e => simp [decode, hd]
  | ok j =>
    cases hm : j.malformed with
    | some m =>
      simp only [decode, hd, hm, Except.ok.injEq, reduceCtorEq, false_iff, not_and]
      rintro rfl hwf
      cases hm.symm.trans hwf
    | none =>
      simp only [decode, hd, hm, Except.ok.injEq, iff_self_and]
      rintro rfl
      exact hm

/-- Settles O50: both directions of `decode_eq_ok_iff`. -/
theorem decodeAndEncodeAgree : Obligations.DecodeAndEncodeAgree := by
  unfold Obligations.DecodeAndEncodeAgree
  exact ⟨fun i hwf => decode_eq_ok_iff.mpr ⟨rfl, hwf⟩, fun r i => decode_eq_ok_iff.mp⟩

/-- Every command of the table can be issued. -/
theorem Command.decode_zeroOperands (c : Command) : ∃ i, decode ⟨.command c.opcode, c.zeroOperands⟩ = .ok i := by
  cases c <;> exact ⟨_, rfl⟩

/-- An opcode outside the table is named, whatever the operands (R58). -/
theorem decode_unknownOpcode {op : Word} (h : Command.ofOpcode op = none) (o : Operands) :
    decode ⟨.command op, o⟩ = .error (.unknownOpcode op) := by
  simp only [decode, decodeSelect, h]

/-- A reserved select code is named, whatever the operands (R63). -/
theorem decode_reservedSelect {sel : BitVec 4} (h : BlockOp.ofOpsel sel = none) (o : Operands) :
    decode ⟨.block sel, o⟩ = .error (.reservedSelect sel) := by
  simp only [decode, decodeSelect, h]

end Sys2Proof

namespace Sys2Proof.Machine

/-- In IDLE the step refuses a first request that stands for no operation (R58, R63). -/
theorem step_refuses_reject {s : State} {r : Request} {rest : List Request} {e : Reject} (hidle : s.phase = .idle)
    (hreq : s.requests = r :: rest) (hdec : decode r = .error e) : step s = .refused (.undecodable e) := by
  simp only [step, portStep, hidle, if_true, hreq, issue, hdec]

/-- Settles O47: the reserved codes select nothing, and the step refuses what decodes to nothing. -/
theorem reservedSelectsAreRefused : Obligations.ReservedSelectsAreRefused := by
  unfold Obligations.ReservedSelectsAreRefused
  intro sel o h6
  have hdec := decode_reservedSelect (BlockOp.ofOpsel_eq_none_iff.mpr h6) o
  exact ⟨hdec, fun s rest hidle hreq => step_refuses_reject hidle hreq hdec⟩

/-- Settles O48: the nine words are the opcode column of the table, outside of which an opcode selects nothing. -/
theorem onlyTheNineOpcodesAreCommands : Obligations.OnlyTheNineOpcodesAreCommands := by
  unfold Obligations.OnlyTheNineOpcodesAreCommands
  intro op
  change ((∃ o i, _) ↔ op ∈ Command.all.map Command.opcode) ∧ (op ∉ Command.all.map Command.opcode → _)
  refine ⟨⟨fun ⟨o, i, hdec⟩ => ?_, fun hmem => ?_⟩, fun hmem o => ?_⟩
  · by_contra hmem
    cases (decode_unknownOpcode (Command.ofOpcode_eq_none_iff.mpr hmem) o).symm.trans hdec
  · obtain ⟨c, -, rfl⟩ := List.mem_map.mp hmem
    exact ⟨c.zeroOperands, c.decode_zeroOperands⟩
  · have hdec := decode_unknownOpcode (Command.ofOpcode_eq_none_iff.mpr hmem) o
    exact ⟨hdec, fun s rest hidle hreq => step_refuses_reject hidle hreq hdec⟩

/-- Settles O49: each word is decoded as it stands. -/
theorem tableWordsDecode : Obligations.TableWordsDecode := by
  unfold Obligations.TableWordsDecode
  decide

end Sys2Proof.Machine
end

section
/-! SUPPORT. The bytes of groups and of write frames (30_encoding.md R50, R51), and what the far end of the bus reads
from a frame (R52). -/

namespace Sys2Proof.Machine

/-! ### What a receiver reads -/

/-- A receiver of groups back to back gets their words, however many there are (R50). -/
theorem receiveGroups_flatMap_encGroup (ws : Words) : receiveGroups (ws.flatMap encGroup) = some ws := by
  induction ws with
  | nil => rfl
  | cons w ws ih =>
    have hw : decGroup (hiByte w) (loByte w) (crc8 [hiByte w, loByte w]) = .ok w := decGroup_eq_ok_iff.mpr rfl
    change receiveGroups (hiByte w :: loByte w :: crc8 [hiByte w, loByte w] :: ws.flatMap encGroup) = some (w :: ws)
    simp only [receiveGroups, hw, ih, Option.map_some]

/-- A receiver of a write frame gets the opcode and the argument words (R51). -/
@[simp] theorem receiveFrame_writeFrame (op : Word) (args : Words) :
    receiveFrame (writeFrame op args) = some (op, args) := by
  change (receiveGroups (args.flatMap encGroup)).map (fun ws => (wordOf (hiByte op) (loByte op), ws)) = some (op, args)
  rw [receiveGroups_flatMap_encGroup, Option.map_some, wordOf_hiByte_loByte]

/-- A receiver of a command's frame gets the command and its words (R52, R56). -/
theorem receiveCommand_writeFrame (c : Command) (args : Words) (h : args.length = c.nArgs) :
    receiveCommand (writeFrame c.opcode args) = some (c, args) := by
  simp only [receiveCommand, receiveFrame_writeFrame, Command.ofOpcode_opcode, h, if_true]

/-- Settles O17: the groups are read back by induction on the words, and an opcode stands in one row of the table. -/
theorem writeFrameReadsBack : Obligations.WriteFrameReadsBack := by
  unfold Obligations.WriteFrameReadsBack
  exact ⟨receiveFrame_writeFrame, receiveCommand_writeFrame⟩

/-! ### The bytes of groups and frames -/

/-- The high byte of a word in the arithmetic of R31. -/
theorem hiByte_eq_ofNat (w : Word) : hiByte w = BitVec.ofNat 8 (w.toNat / 256) := by
  simp only [hiByte, BitVec.extractLsb', Nat.shiftRight_eq_div_pow, Nat.reducePow]

/-- The low byte of a word in the arithmetic of R31. -/
theorem loByte_eq_ofNat (w : Word) : loByte w = BitVec.ofNat 8 (w.toNat % 256) := by
  apply BitVec.eq_of_toNat_eq
  simp [loByte]

/-- ENC_WORD completes with the word's group and no call (R91). -/
theorem encWord_completes (s : State) (w : Word) (hidle : s.phase = .idle) :
    Completes (.encWord w) s [] (.ok (.group (hiByte w) (loByte w) (crc8 [hiByte w, loByte w]))) :=
  .of_ends (exec_encWord s w) hidle ⟨_, State.moved_setAcc _ _, rfl⟩

/-- Settles O11: the bytes of the returned group in the arithmetic of R31. -/
theorem encWordReturnsTheGroup : Obligations.EncWordReturnsTheGroup := by
  unfold Obligations.EncWordReturnsTheGroup
  intro s w hidle
  rw [← hiByte_eq_ofNat, ← loByte_eq_ofNat]
  exact encWord_completes s w hidle

/-- Settles O15: the opcode's two bytes, then the groups written out, in the arithmetic of R31. -/
theorem writeFormats : Obligations.WriteFormats := by
  unfold Obligations.WriteFormats
  intro op a0 a1
  simp only [← hiByte_eq_ofNat, ← loByte_eq_ofNat]
  exact ⟨rfl, rfl, rfl⟩

end Sys2Proof.Machine
end

section
/-! SUPPORT. The statements of 40_crc.md, settled: the algorithm on numbers and on ACC, what follows from its linearity
over exclusive or, and the derived forms. -/

namespace Sys2Proof.Machine

/-! ### The algorithm -/

/-- CRC8 completes with the checksum and no call (R77, R78). -/
theorem crc8_completes (s : State) (bs : Bytes) (hidle : s.phase = .idle) :
    Completes (.crc8 bs) s [] (.ok (.byte (crc8 bs))) :=
  .of_ends (exec_crc8 s bs) hidle ⟨_, State.moved_setAcc _ _, rfl⟩

/-- Settles O1: the empty sequence leaves the initial value, and CRC8 completes with the checksum of its sequence. -/
theorem emptySequenceGivesInitialValue : Obligations.EmptySequenceGivesInitialValue := by
  unfold Obligations.EmptySequenceGivesInitialValue
  exact ⟨crc8_nil, fun s hidle => crc8_completes s [] hidle⟩

/-- A shift iteration with bit 7 set (R73). -/
theorem shift1_of_bit7 {a : Byte} (h7 : a.getLsbD 7 = true) : shift1 a = (a <<< 1) ^^^ Config.crcPoly := if_pos h7

/-- A shift iteration with bit 7 clear (R73). -/
theorem shift1_of_not_bit7 {a : Byte} (h7 : a.getLsbD 7 = false) : shift1 a = a <<< 1 :=
  if_neg (Bool.eq_false_iff.mp h7)

/-- Settles O2: by bit 7; the mask of eight bits passes through the exclusive or, as 0x31 has no bit above it. -/
theorem shiftIterationOnNumbers : Obligations.ShiftIterationOnNumbers := by
  unfold Obligations.ShiftIterationOnNumbers
  intro a
  cases h7 : a.getLsbD 7 with
  | true =>
    calc (shift1 a).toNat = (a.toNat <<< 1) % 2 ^ 8 ^^^ 0x31 % 2 ^ 8 := by
          rw [shift1_of_bit7 h7, BitVec.toNat_xor, BitVec.toNat_shiftLeft]; rfl
      _ = ((a.toNat <<< 1) ^^^ 0x31) % 2 ^ 8 := Nat.xor_mod_two_pow.symm
  | false => rw [shift1_of_not_bit7 h7, BitVec.toNat_shiftLeft]; rfl

/-- Settles O3: the last byte of the fold, and the engine on ACC as one equation. -/
theorem bytesAreAbsorbedInOrder : Obligations.BytesAreAbsorbedInOrder := by
  unfold Obligations.BytesAreAbsorbedInOrder
  refine ⟨fun bs b => ?_, crc8_nil, State.crcRun_eq⟩
  rw [crc8_append_one, crcStep_eq]
  rfl

/-- A left shift by k moves the bits that stay in the byte up by k. -/
theorem getLsbD_shiftLeft_add (a : Byte) {i k : Nat} (h : i + k < 8) : (a <<< k).getLsbD (i + k) = a.getLsbD i := by
  rw [BitVec.getLsbD_shiftLeft, decide_eq_true h, decide_eq_false (by omega : ¬ i + k < k), Nat.add_sub_cancel]
  rfl

/-! ### The polynomial form -/

section
open Polynomial

/-- A byte as a polynomial over the field of two elements: bit i is the coefficient of x^i (R79). -/
noncomputable def bytePoly (a : Byte) : (ZMod 2)[X] := ∑ i ∈ Finset.range 8, if a.getLsbD i then X ^ i else 0

/-- Exclusive or adds the polynomials. -/
theorem bytePoly_xor (a b : Byte) : bytePoly (a ^^^ b) = bytePoly a + bytePoly b := by
  simp only [bytePoly, ← Finset.sum_add_distrib, BitVec.getLsbD_xor]
  refine Finset.sum_congr rfl fun i _ => ?_
  cases a.getLsbD i <;> cases b.getLsbD i <;> simp [CharTwo.add_self_eq_zero]

/-- A left shift multiplies by x and drops the term of degree eight. -/
theorem X_mul_bytePoly (a : Byte) : X * bytePoly a = bytePoly (a <<< 1) + (if a.getLsbD 7 then X ^ 8 else 0) := by
  have hlow : bytePoly (a <<< 1) = ∑ i ∈ Finset.range 7, X * (if a.getLsbD i then X ^ i else 0) := by
    have h0 : (a <<< 1).getLsbD 0 = false := by simp
    rw [bytePoly, Finset.sum_range_succ', h0, if_neg Bool.false_ne_true, add_zero]
    refine Finset.sum_congr rfl fun i hi => ?_
    have h7 : i < 7 := Finset.mem_range.mp hi
    rw [getLsbD_shiftLeft_add a (by omega), mul_ite, mul_zero, pow_succ']
  rw [hlow, bytePoly, Finset.mul_sum, Finset.sum_range_succ, mul_ite, mul_zero, ← pow_succ']

/-- The constant 0x31 is g without its term of degree eight (R79). -/
theorem bytePoly_crcPoly : bytePoly Config.crcPoly = X ^ 5 + X ^ 4 + 1 :=
  calc bytePoly Config.crcPoly = 1 + X ^ 4 + X ^ 5 := by simp [bytePoly, Finset.sum_range_succ, Config.crcPoly]
    _ = X ^ 5 + X ^ 4 + 1 := by ring

/-- Settles O5: by bit 7; when it is set, the term that the shift drops is the one of g that 0x31 leaves out. -/
theorem shiftIterationIsTimesXModG : Obligations.ShiftIterationIsTimesXModG := by
  unfold Obligations.ShiftIterationIsTimesXModG
  intro poly g a
  change bytePoly (shift1 a) = X * bytePoly a + (if a.getLsbD 7 then X ^ 8 + X ^ 5 + X ^ 4 + 1 else 0)
  rw [X_mul_bytePoly]
  cases h7 : a.getLsbD 7 with
  | true =>
    have hdrop : (X ^ 8 + X ^ 8 : (ZMod 2)[X]) = 0 := CharTwo.add_self_eq_zero _
    simp only [shift1_of_bit7 h7, bytePoly_xor, bytePoly_crcPoly, if_true]
    linear_combination -hdrop
  | false => simp [shift1_of_not_bit7 h7]

end

/-! ### The checksum is affine -/

/-- A byte step is linear in the accumulator and the byte together (R83). -/
theorem crcStep_xor (a b c d : Byte) : crcStep (a ^^^ c) (b ^^^ d) = crcStep a b ^^^ crcStep c d := by
  simp only [crcStep_eq, ← shift8_xor]
  congr 1
  ac_rfl

/-- So is a run over two sequences of equal length. -/
theorem foldl_crcStep_xor {x y : Bytes} (h : x.length = y.length) (a c : Byte) :
    (List.zipWith (· ^^^ ·) x y).foldl crcStep (a ^^^ c) = x.foldl crcStep a ^^^ y.foldl crcStep c := by
  induction x generalizing y a c with
  | nil =>
    obtain rfl := List.length_eq_zero_iff.mp h.symm
    rfl
  | cons b x ih =>
    match y, h with
    | d :: y, h =>
      simp only [List.zipWith_cons_cons, List.foldl_cons, crcStep_xor]
      exact ih (Nat.succ.inj h) ..

/-- In the sum of two checksums the initial values cancel (R83). -/
theorem crc8_xor_crc8 {x y : Bytes} (h : x.length = y.length) :
    crc8 x ^^^ crc8 y = crcLin (List.zipWith (· ^^^ ·) x y) :=
  (foldl_crcStep_xor h Config.crcInit Config.crcInit).symm

theorem zipWith_xor_zeros (x : Bytes) : List.zipWith (· ^^^ ·) x (List.replicate x.length 0) = x := by
  rw [← List.map_const', List.zipWith_map_right, List.zipWith_self]
  simp

/-- Settles O9: the second clause is the first with zero bytes as the other sequence. -/
theorem checksumIsAffine : Obligations.ChecksumIsAffine := by
  unfold Obligations.ChecksumIsAffine
  refine ⟨fun x y h => crc8_xor_crc8 h, fun x => ?_, by decide⟩
  have hlin := crc8_xor_crc8 (x := x) (y := List.replicate x.length 0) List.length_replicate.symm
  rw [zipWith_xor_zeros] at hlin
  rw [← hlin, BitVec.xor_assoc, BitVec.xor_self, BitVec.xor_zero]

/-! ### The byte step is a bijection -/

/-- A shift iteration loses nothing: the bit dropped is told by bit 0, which the shift leaves clear and 0x31 sets. -/
theorem shift1_eq_zero {a : Byte} (h : shift1 a = 0) : a = 0 := by
  have hz (i : Nat) : (0 : Byte).getLsbD i = false := BitVec.getLsbD_zero
  cases h7 : a.getLsbD 7 with
  | true =>
    have h0 : (shift1 a).getLsbD 0 = true := by rw [shift1_of_bit7 h7]; simp [Config.crcPoly]
    rw [h, hz] at h0
    cases h0
  | false =>
    refine BitVec.eq_of_getLsbD_eq fun i hi => ?_
    obtain rfl | hi7 := eq_or_ne i 7
    · rw [h7, hz]
    · rw [← getLsbD_shiftLeft_add a (by omega : i + 1 < 8), ← shift1_of_not_bit7 h7, h, hz, hz]

theorem shift1_injective : Function.Injective shift1 := fun a b h => by
  have hsum : shift1 (a ^^^ b) = 0 := by rw [shift1_xor, h]; exact BitVec.xor_self
  exact BitVec.xor_eq_zero_iff.mp (shift1_eq_zero hsum)

theorem shift8_injective : Function.Injective shift8 := shift1_injective.iterate 8

theorem shift8_eq_zero_iff {a : Byte} : shift8 a = 0 ↔ a = 0 := shift8_injective.eq_iff' shift8_zero

/-- A byte step clears the accumulator exactly when the byte equals it (R85). -/
theorem crcStep_eq_zero_iff {a b : Byte} : crcStep a b = 0 ↔ a = b := by
  rw [crcStep_eq, shift8_eq_zero_iff]
  exact BitVec.xor_eq_zero_iff

/-- The group test compares the third byte with the checksum of the first two (R92). -/
theorem decGroup_eq_ok_wordOf_iff {b0 b1 b2 : Byte} : decGroup b0 b1 b2 = .ok (wordOf b0 b1) ↔ crc8 [b0, b1] = b2 := by
  simp [decGroup_eq_ok_iff, encGroup]

/-- Settles O10: either check of a group says that its third byte equals the checksum of the first two. -/
theorem zeroResidue : Obligations.ZeroResidue := by
  unfold Obligations.ZeroResidue
  refine ⟨fun bs => ?_, fun b0 b1 b2 => ?_⟩
  · rw [crc8_append_one, crcStep_self]
  · calc decGroup b0 b1 b2 = .ok (wordOf b0 b1) ↔ crc8 [b0, b1] = b2 := decGroup_eq_ok_wordOf_iff
      _ ↔ crcStep (crc8 [b0, b1]) b2 = 0 := crcStep_eq_zero_iff.symm
      _ ↔ crc8 [b0, b1, b2] = 0 := Iff.rfl

/-! ### The table form -/

/-- Row r of T (R81). -/
def crcRow (r : Nat) : Bytes := (List.range 16).map fun c => shift8 (BitVec.ofNat 8 (16 * r + c))

/-- The first n rows, one after the other, are the first 16 n entries. -/
theorem foldl_append_crcRow (n : Nat) :
    (List.range n).foldl (fun t r => t ++ crcRow r) []
      = (List.range (16 * n)).map fun d => shift8 (BitVec.ofNat 8 d) := by
  induction n with
  | zero => rfl
  | succ n ih =>
    rw [List.range_succ, List.foldl_concat, ih, Nat.mul_succ, List.range_add, List.map_append, List.map_map]
    rfl

/-- The printed table, row by row, is the computed one (R81). -/
theorem crcTable_eq : crcTable = (List.range 256).map fun d => shift8 (BitVec.ofNat 8 d) :=
  calc crcTable = (List.range 16).foldl (fun t r => t ++ crcRow r) [] := by rfl
    _ = _ := foldl_append_crcRow 16

/-- A byte step from zero is T (R81). -/
theorem crcStep_zero (d : Byte) : crcStep 0 d = shift8 d := congrArg shift8 BitVec.zero_xor

theorem crcTable_getElem? (d : Byte) : crcTable[d.toNat]? = some (crcStep 0 d) := by
  have hd : d.toNat < 256 := d.isLt
  rw [crcTable_eq, crcStep_zero, List.getElem?_map, List.getElem?_range hd, Option.map_some, BitVec.ofNat_toNat,
    BitVec.setWidth_eq]

/-- A byte step is one step from zero over the sum of accumulator and byte (R81). -/
theorem crcStep_eq_crcStep_zero (a b : Byte) : crcStep a b = crcStep 0 (a ^^^ b) := by
  rw [crcStep_zero, crcStep_eq]

/-- One look-up is one byte step (R81). -/
theorem crcTable_getD_xor (a b : Byte) : crcTable.getD (a ^^^ b).toNat 0 = crcStep a b := by
  rw [List.getD_eq_getElem?_getD, crcTable_getElem?, ← crcStep_eq_crcStep_zero, Option.getD_some]

/-- Settles O7: the look-up is the byte step, and on a finite type T is a bijection because it is one to one. -/
theorem tableFormAgrees : Obligations.TableFormAgrees := by
  unfold Obligations.TableFormAgrees
  refine ⟨by simp [crcTable_eq], crcTable_getElem?, crcStep_eq_crcStep_zero, fun bs => ?_, ?_⟩
  · simp only [crcByTable, crcTable_getD_xor]
    rfl
  · simp only [crcStep_zero]
    exact Finite.injective_iff_bijective.mp shift8_injective

/-! ### The bit-serial form -/

/-- Feeding bit i of b to an accumulator into which b was XORed, moved up until its bit i stands at bit 7: the bit fed
cancels there, so that a shift iteration of the rest is left, with b moved on by one. -/
theorem crcBit_pending (c b : Byte) {i k : Nat} (h : i + k = 7) :
    crcBit (c ^^^ b <<< k) (b.getLsbD i) = shift1 c ^^^ b <<< (k + 1) := by
  have hheld : (b <<< k).getLsbD 7 = b.getLsbD i := h ▸ getLsbD_shiftLeft_add b (by omega)
  have hbit : ((c ^^^ b <<< k).getLsbD 7 ^^ b.getLsbD i) = c.getLsbD 7 := by
    rw [BitVec.getLsbD_xor, hheld, Bool.xor_assoc, Bool.xor_self, Bool.xor_false]
  rw [crcBit, hbit, shift1, BitVec.shiftLeft_xor_distrib, BitVec.shiftLeft_add]
  split
  · change _ ^^^ Config.crcPoly = _
    ac_rfl
  · rfl

/-- Settles O6: before the first bit the accumulator is a ^ b with the whole of b XORed in; after the eighth all of b is
moved out, and eight shift iterations of a ^ b are left. -/
theorem bitSerialFormAgrees : Obligations.BitSerialFormAgrees := by
  unfold Obligations.BitSerialFormAgrees
  intro a b
  have hall : a = (a ^^^ b) ^^^ b <<< 0 := by
    rw [BitVec.shiftLeft_zero, BitVec.xor_assoc, BitVec.xor_self, BitVec.xor_zero]
  have hnone : b <<< 8 = 0#8 := BitVec.shiftLeft_eq_zero (Nat.le_refl 8)
  calc crcBits a b = crcBits ((a ^^^ b) ^^^ b <<< 0) b := by rw [← hall]
    _ = shift8 (a ^^^ b) ^^^ b <<< 8 := by
      simp only [crcBits, List.foldl_cons, List.foldl_nil, crcBit_pending, Nat.reduceAdd]
      rfl
    _ = crcStep a b := by rw [hnone, BitVec.xor_zero, crcStep_eq]

/-! ### The combinational form -/

/-- What holds of 0 and of the bytes with one bit, and is kept by exclusive or, holds of every byte. -/
theorem byte_induction_of_xor {P : Byte → Prop} (zero : P 0) (xor : ∀ d e, P d → P e → P (d ^^^ e))
    (twoPow : ∀ i : Fin 8, P (BitVec.twoPow 8 i)) (d : Byte) : P d := by
  have hlow : ∀ n ≤ 8, ∀ d : Byte, (∀ i, n ≤ i → d.getLsbD i = false) → P d := by
    intro n
    induction n with
    | zero =>
      intro _ d hd
      have hd0 : d = 0 := BitVec.eq_of_getLsbD_eq fun i _ => (hd i i.zero_le).trans BitVec.getLsbD_zero.symm
      exact hd0 ▸ zero
    | succ n ih =>
      intro hn d hd
      cases hbit : d.getLsbD n with
      | false =>
        refine ih (by omega) d fun i hi => ?_
        obtain rfl | hlt := hi.eq_or_lt
        · exact hbit
        · exact hd i hlt
      | true =>
        have hrest : P (d ^^^ BitVec.twoPow 8 n) := by
          refine ih (by omega) _ fun i hi => ?_
          rw [BitVec.getLsbD_xor, BitVec.getLsbD_twoPow]
          obtain rfl | hlt := hi.eq_or_lt
          · simp only [hbit, show n < 8 from hn, decide_true, Bool.and_true, Bool.xor_self]
          · simp only [hd i hlt, hlt.ne, decide_false, Bool.and_false, Bool.xor_self]
        have hd' := xor _ _ hrest (twoPow ⟨n, hn⟩)
        rwa [BitVec.xor_assoc, BitVec.xor_self, BitVec.xor_zero] at hd'
  exact hlow 8 le_rfl d fun i hi => d.getLsbD_of_ge i hi

/-- The bit equations are linear, each being a sum of input bits (R82). -/
theorem crcNet_xor (a b : Byte) : crcNet (a ^^^ b) = crcNet a ^^^ crcNet b := by
  have hpair (i : Nat) (x y : Bool) :
      ((x ^^ y) ^^ (a.getLsbD i ^^ b.getLsbD i)) = ((x ^^ a.getLsbD i) ^^ (y ^^ b.getLsbD i)) := by
    rw [Bool.xor_assoc, Bool.xor_assoc, Bool.xor_left_comm y]
  unfold crcNet
  change (_ : BitVec (1 + 1 + 1 + 1 + 1 + 1 + 1 + 1)) = _ ^^^ _
  simp only [BitVec.getLsbD_xor, hpair, BitVec.xor_append, BitVec.ofBool_xor_ofBool]

/-- The bit equations are T: both are linear, and they agree on the eight bytes with one bit (R82). -/
theorem crcNet_eq_shift8 (d : Byte) : crcNet d = shift8 d := by
  induction d using byte_induction_of_xor with
  | zero => decide
  | xor d e hd he => rw [crcNet_xor, shift8_xor, hd, he]
  | twoPow i => decide +revert

/-- Settles O8: the bit equations are T, and they are linear. -/
theorem combinationalFormAgrees : Obligations.CombinationalFormAgrees := by
  unfold Obligations.CombinationalFormAgrees
  exact fun a b => ⟨by rw [crcNet_eq_shift8, crcStep_eq], crcNet_xor a b⟩

end Sys2Proof.Machine
end

section
/-! SUPPORT. The statements of 41_framer.md, settled: groups encoded and decoded, the errors a group check detects, the
write path, the read path, and the word limits at the port. -/

namespace Sys2Proof.Machine

/-! ### What a completed operation leaves -/

/-- The state that exec answers for an operation that completes is the one the operation returned in (R139). -/
theorem Completes.returned {i : Instr} {s t : State} {es : List Event} {r : Result Value} (h : Completes i s es r)
    (he : exec i s = .next t) : Returned s t es r := by
  obtain ⟨u, hu, hr⟩ := h
  cases hu.symm.trans he
  exact hr

/-- Its result is the only one the caller can have. -/
theorem Completes.result_eq {i : Instr} {s t : State} {es : List Event} {r x : Result Value} (h : Completes i s es r)
    (he : exec i s = .next t) (hx : t.result = some x) : r = x :=
  Option.some.inj ((h.returned he).result.symm.trans hx)

/-! ### Encoding and decoding a word -/

/-- Settles O13: ENC_WORD returns the bytes of a group, and a group decodes to the word that encodes to it alone. -/
theorem wordRoundTrip : Obligations.WordRoundTrip := by
  unfold Obligations.WordRoundTrip
  constructor
  · intro s s' t w b0 b1 b2 he hr hidle'
    obtain ⟨hidle, -⟩ := exec_next he
    cases (encWord_completes s w hidle).result_eq he hr
    have hdec := decGroup_completes s' (hiByte w) (loByte w) (crc8 [hiByte w, loByte w]) hidle'
    rwa [decGroup_eq_ok_iff.mpr rfl] at hdec
  · intro s t w b0 b1 b2 he hr
    obtain ⟨hidle, -⟩ := exec_next he
    have hres := (decGroup_completes s b0 b1 b2 hidle).result_eq he hr
    rw [← decGroup_eq_ok_iff]
    cases hd : decGroup b0 b1 b2 with
    | ok v => rw [hd] at hres; cases hres; rfl
    | err k => rw [hd] at hres; cases hres

/-! ### Errors in a group -/

/-- What the bits of `e`, inverted in a group, leave in the engine once the three bytes have run through it: the linear
part of the checksum over the bytes of `e` (R83, R86). -/
def groupSyndrome (e : BitVec 24) : Byte :=
  crcLin [e.extractLsb' 16 8, e.extractLsb' 8 8, e.extractLsb' 0 8]

theorem groupSyndrome_xor (e f : BitVec 24) : groupSyndrome (e ^^^ f) = groupSyndrome e ^^^ groupSyndrome f := by
  simp only [groupSyndrome, BitVec.extractLsb'_xor]
  exact foldl_crcStep_xor (x := [e.extractLsb' 16 8, e.extractLsb' 8 8, e.extractLsb' 0 8])
    (y := [f.extractLsb' 16 8, f.extractLsb' 8 8, f.extractLsb' 0 8]) rfl 0 0

theorem groupSyndrome_zero : groupSyndrome 0 = 0 := by
  simpa using groupSyndrome_xor 0 0

/-- Three bytes run through the engine clear it exactly when the third is the checksum of the first two (R85). -/
theorem crc8_three_eq_zero_iff {b0 b1 b2 : Byte} : crc8 [b0, b1, b2] = 0 ↔ crc8 [b0, b1] = b2 := crcStep_eq_zero_iff

/-- The residue of a group with inverted bits does not depend on the word: the group itself leaves none (R85, R86). -/
theorem crc8_flipGroup (w : Word) (e : BitVec 24) :
    crc8 [(flipGroup w e).1, (flipGroup w e).2.1, (flipGroup w e).2.2] = groupSyndrome e := by
  have hgroup : crc8 (encGroup w) = 0 := crc8_three_eq_zero_iff.mpr rfl
  have hcancel (b c : Byte) : (b ^^^ c) ^^^ b = c := by
    rw [BitVec.xor_comm b c, BitVec.xor_assoc, BitVec.xor_self, BitVec.xor_zero]
  calc crc8 [(flipGroup w e).1, (flipGroup w e).2.1, (flipGroup w e).2.2]
      = crc8 [(flipGroup w e).1, (flipGroup w e).2.1, (flipGroup w e).2.2] ^^^ crc8 (encGroup w) := by
        rw [hgroup]; exact BitVec.xor_zero.symm
    _ = crcLin (List.zipWith (· ^^^ ·) [(flipGroup w e).1, (flipGroup w e).2.1, (flipGroup w e).2.2] (encGroup w)) :=
        crc8_xor_crc8 rfl
    _ = groupSyndrome e := by
        simp only [flipGroup, encGroup, List.zipWith_cons_cons, List.zipWith_nil_left, hcancel, groupSyndrome]

/-- Inverted bits are detected when they leave a residue (R92). -/
theorem decGroup_flipGroup_of_ne {w : Word} {e : BitVec 24} (h : groupSyndrome e ≠ 0) :
    decGroup (flipGroup w e).1 (flipGroup w e).2.1 (flipGroup w e).2.2 = .err .checksumError := by
  rw [← crc8_flipGroup w e] at h
  exact decGroup_of_crc8_ne (mt crc8_three_eq_zero_iff.mpr h)

/-- Inverted bits that leave none are not (R86). -/
theorem decGroup_flipGroup_of_eq {w : Word} {e : BitVec 24} (h : groupSyndrome e = 0) :
    decGroup (flipGroup w e).1 (flipGroup w e).2.1 (flipGroup w e).2.2
      = .ok (wordOf (flipGroup w e).1 (flipGroup w e).2.1) := by
  rw [← crc8_flipGroup w e] at h
  exact decGroup_of_crc8_eq (crc8_three_eq_zero_iff.mp h)

/-- The residue of one inverted bit. -/
def bitSyndrome (i : Fin 24) : Byte := groupSyndrome (1#24 <<< i.val)

/-- These residues, bit 0 first: x^8 to x^31 modulo g (R79). -/
def bitSyndromes : Bytes :=
  [0x31, 0x62, 0xC4, 0xB9, 0x43, 0x86, 0x3D, 0x7A, 0xF4, 0xD9, 0x83, 0x37,
    0x6E, 0xDC, 0x89, 0x23, 0x46, 0x8C, 0x29, 0x52, 0xA4, 0x79, 0xF2, 0xD5]

theorem map_bitSyndrome : (List.finRange 24).map bitSyndrome = bitSyndromes := by
  simp [List.finRange, bitSyndrome, bitSyndromes, groupSyndrome, crcLin, crcStep, shift1, Config.crcPoly]

/-- No two bits of a group leave the same residue. -/
theorem bitSyndrome_injective : Function.Injective bitSyndrome := by
  have hnodup : ((List.finRange 24).map bitSyndrome).Nodup := by rw [map_bitSyndrome]; decide
  exact fun i j => List.inj_on_of_nodup_map hnodup (List.mem_finRange i) (List.mem_finRange j)

/-- How many bits of a byte are set, modulo 2: the value at 1 of the byte's polynomial (R79). -/
def byteParity (a : Byte) : ZMod 2 := ∑ i ∈ Finset.range 8, if a.getLsbD i then 1 else 0

theorem byteParity_xor (a b : Byte) : byteParity (a ^^^ b) = byteParity a + byteParity b := by
  simp only [byteParity, ← Finset.sum_add_distrib, BitVec.getLsbD_xor]
  refine Finset.sum_congr rfl fun i _ => ?_
  cases a.getLsbD i <;> cases b.getLsbD i <;> rfl

/-- Every bit of a group leaves a residue with an odd number of ones: g has the factor x + 1 (R79). -/
theorem byteParity_bitSyndrome (i : Fin 24) : byteParity (bitSyndrome i) = 1 := by
  have hodd : ∀ b ∈ bitSyndromes, byteParity b = 1 := by decide
  exact hodd _ (map_bitSyndrome ▸ List.mem_map_of_mem (List.mem_finRange i))

/-- The residue of inverted bits tells whether they are odd in number, whatever the pattern `e` they come on top of. -/
theorem byteParity_groupSyndrome_foldl (ps : List (Fin 24)) (e : BitVec 24) :
    byteParity (groupSyndrome (ps.foldl (fun e i => e ^^^ (1#24 <<< i.val)) e))
      = byteParity (groupSyndrome e) + ps.length := by
  induction ps generalizing e with
  | nil => simp
  | cons i ps ih =>
    have hi : byteParity (groupSyndrome (1#24 <<< i.val)) = 1 := byteParity_bitSyndrome i
    rw [List.foldl_cons, ih, groupSyndrome_xor, byteParity_xor, hi, List.length_cons, Nat.cast_succ]
    ring

/-- So an odd number of inverted bits leaves a residue (R86). -/
theorem groupSyndrome_ne_zero_of_odd {ps : List (Fin 24)} (h : Odd ps.length) :
    groupSyndrome (errorPattern ps) ≠ 0 := by
  intro h0
  have hpar := byteParity_groupSyndrome_foldl ps 0
  rw [← errorPattern, h0, groupSyndrome_zero, ZMod.natCast_eq_one_iff_odd.mpr h] at hpar
  simp at hpar

/-- So do two (R86). -/
theorem groupSyndrome_ne_zero_of_pair {i j : Fin 24} (h : i ≠ j) : groupSyndrome (errorPattern [i, j]) ≠ 0 := by
  have hpat : errorPattern [i, j] = 1#24 <<< i.val ^^^ 1#24 <<< j.val := congrArg (· ^^^ _) BitVec.zero_xor
  rw [hpat, groupSyndrome_xor]
  exact fun h0 => h (bitSyndrome_injective (BitVec.xor_eq_zero_iff.mp h0))

/-- Settles O14: one and three bits are odd in number and two leave different residues; the four bits of 0x000131 are g
itself, which leaves none, and one of them is bit 0 of the low byte. -/
theorem upToThreeBitErrorsAreDetected : Obligations.UpToThreeBitErrorsAreDetected := by
  unfold Obligations.UpToThreeBitErrorsAreDetected
  refine ⟨fun w ps hnd h1 h3 => decGroup_flipGroup_of_ne ?_, fun w => ?_⟩
  · match ps, h1, h3, hnd with
    | [i], _, _, _ => exact groupSyndrome_ne_zero_of_odd ⟨0, rfl⟩
    | [i, j], _, _, hnd => exact groupSyndrome_ne_zero_of_pair (List.ne_of_not_mem_cons (List.nodup_cons.mp hnd).1)
    | [i, j, k], _, _, _ => exact groupSyndrome_ne_zero_of_odd ⟨1, rfl⟩
  · have h0 : groupSyndrome 0x000131 = 0 := by simp [groupSyndrome, crcLin, crcStep, shift1, Config.crcPoly]
    refine ⟨_, fun hw => ?_, decGroup_flipGroup_of_eq h0⟩
    have hlo : loByte w ^^^ 1 = loByte w := (loByte_wordOf _ _).symm.trans (congrArg loByte hw)
    simp at hlo

/-! ### The write path -/

/-- The result of a write that the bus answered with `a` (R95). -/
def writeOutcome : WriteAnswer → Result Unit
  | .ok => .ok ()
  | .fail => .err .transportError

/-- WR_FRAME whose write the bus answers: the one write, and the outcome of R95. -/
theorem State.wrFrame_answered (s : State) (op : Word) (args : Words) (a : WriteAnswer) (h : args.length ≤ 2)
    (ha : s.bus.writeReply s.addr (writeFrame op args) = .returned a) :
    (s.wrFrame op args).Ends s [.write s.addr (writeFrame op args) a] (writeOutcome a) := by
  refine ⟨_, s.moved_framed op args _, ?_⟩
  rw [s.wrFrame_eq op args h, ha]
  cases a <;> rfl

/-- WR_FRAME whose write the bus answers completes with that write and its outcome (R95). -/
theorem wrFrame_completes (s : State) (op : Word) (args : Words) (a : WriteAnswer) (hidle : s.phase = .idle)
    (h : args.length ≤ 2) (ha : s.bus.writeReply s.addr (writeFrame op args) = .returned a) :
    Completes (.wrFrame op args) s [.write s.addr (writeFrame op args) a] ((writeOutcome a).map fun _ => .unit) :=
  .of_ends (exec_wrFrame s op args h) hidle
    (((s.begin args).wrFrame_answered op args a h ha).andThen (fun _ => Value.unit) id fun t => t.moved_setAcc t.acc)

/-- Settles O18: the outcome of the one write, for either answer. -/
theorem wrFrameMakesOneWrite : Obligations.WrFrameMakesOneWrite := by
  unfold Obligations.WrFrameMakesOneWrite
  exact fun s op args hidle h => ⟨wrFrame_completes s op args .ok hidle h, wrFrame_completes s op args .fail hidle h⟩

/-! ### The read path -/

/-- RD_WORDS of no word completes with the delay alone (R100). -/
theorem rdWords_zero_completes (s : State) (d : Dur) (hidle : s.phase = .idle) :
    Completes (.rdWords 0 d) s (sleepEvents d) (.ok (.words [])) :=
  .of_ends (exec_rdWords s 0 d (Nat.zero_le 3)) hidle
    (((s.begin []).rdWords_zero d).andThen Value.words id fun t => t.moved_setAcc t.acc)

/-- Settles O21: the delay alone, which for a delay of 0 is no call. -/
theorem rdWordsOfNoneTakesTheDelayOnly : Obligations.RdWordsOfNoneTakesTheDelayOnly := by
  unfold Obligations.RdWordsOfNoneTakesTheDelayOnly
  exact fun s d hidle => ⟨rdWords_zero_completes s d hidle, rdWords_zero_completes s 0 hidle⟩

/-- An operation that is not refused is within the word limits (R96, R101). -/
theorem wellFormed_of_exec_next {i : Instr} {s t : State} (h : exec i s = .next t) : i.WellFormed := by
  cases hm : i.malformed with
  | none => exact hm
  | some m => cases (exec_malformed hm s).symm.trans h

/-- While its read has not returned, RD_WORDS has no result (R175). -/
theorem rdWords_pending_result {s t : State} {n : Nat} {d : Dur} (he : exec (.rdWords n d) s = .next t) (h0 : n ≠ 0)
    (ha : (s.bus.play (sleepEvents d)).readReply s.addr (3 * n) = .neverReturns) : t.result = none := by
  obtain ⟨hidle, -⟩ := exec_next he
  have hn : n ≤ 3 := (countMalformed_eq_none n).mp (wellFormed_of_exec_next he)
  rw [exec_rdWords s n d hn] at he
  obtain ⟨u, hu, hm, -, -⟩ := operation_waits (args := [])
    (body := fun s => (s.rdWords n d).andThen fun ws s => .done (.words ws) s) hidle
    (((s.begin []).rdWords_waits n d h0 ha).andThen _)
  cases hu.symm.trans he
  exact hm.result

/-- What the answer to a read makes of it is n words, of which the bytes read are the groups, or an error (R99). -/
theorem ReadGives.words_or_error {n : Nat} {a : ReadAnswer} {x : Result Words} (h : ReadGives n a x) :
    (∃ ws : Words, x = .ok ws ∧ ws.length = n ∧ a = .bytes (ws.flatMap encGroup)) ∨ ∃ k, x = .err k := by
  cases a with
  | fail => exact .inr ⟨_, h⟩
  | bytes bs =>
    obtain ⟨-, hx⟩ | ⟨ws, hl, rfl, hx⟩ | ⟨-, -, hx⟩ := h
    · exact .inr ⟨_, hx⟩
    · exact .inl ⟨ws, hx, hl, rfl⟩
    · exact .inr ⟨_, hx⟩

/-- Settles O23: by the word count and what becomes of the read; without one there is no word, a read that never returns
gives no result, and one that returns gives what its answer makes of it. -/
theorem rdWordsIsAllOrNothing : Obligations.RdWordsIsAllOrNothing := by
  unfold Obligations.RdWordsIsAllOrNothing
  intro s t n d r he hr
  obtain ⟨hidle, -⟩ := exec_next he
  by_cases h0 : n = 0
  · subst h0
    exact .inl ⟨[], ((rdWords_zero_completes s d hidle).result_eq he hr).symm, rfl, fun h => absurd rfl h⟩
  cases ha : (s.bus.play (sleepEvents d)).readReply s.addr (3 * n) with
  | neverReturns => cases (rdWords_pending_result he h0 ha).symm.trans hr
  | returned a =>
    have hn : n ≤ 3 := (countMalformed_eq_none n).mp (wellFormed_of_exec_next he)
    have hcomp := rdWords_completes s n d a hidle h0 hn ha
    have hret := hcomp.returned he
    have hx := hcomp.result_eq he hr
    obtain ⟨ws, hok, hl, rfl⟩ | ⟨k, herr⟩ := (readGives_readOutcome n a).words_or_error
    · rw [hok] at hx
      refine .inl ⟨ws, hx.symm, hl, fun _ => ?_⟩
      rw [hret.bus, Bus.play_history, ← List.append_assoc, List.getLast?_concat]
    · rw [herr] at hx
      exact .inr ⟨k, hx.symm, t.readRes_of_empty hret.res⟩

/-! ### The word limits at the port -/

/-- The request of an operation over a word limit decodes to nothing, and the limit is named (R96, R101). -/
theorem issue_encode_malformed {i : Instr} {m : Malformed} (h : i.malformed = some m) (s : State) :
    issue (encode i) s = .refused (.undecodable (.malformed m)) := by
  simp only [issue, decode, decodeSelect_encode, h]

theorem argsMalformed_of_lt {args : Words} (h : 2 < args.length) :
    Instr.argsMalformed args = some .tooManyArguments :=
  if_neg (Nat.not_le.mpr h)

theorem countMalformed_of_lt {n : Nat} (h : 3 < n) : Instr.countMalformed n = some .tooManyWords :=
  if_neg (Nat.not_le.mpr h)

/-- Settles O19: what is over a limit is refused by the operation and at the port alike, whatever the state. -/
theorem portRefusesTooManyWords : Obligations.PortRefusesTooManyWords := by
  unfold Obligations.PortRefusesTooManyWords
  refine ⟨fun s op args n d h => ?_, fun s op args n d h ha => ?_⟩
  · have hargs := argsMalformed_of_lt h
    have hwr : (Instr.wrFrame op args).malformed = some .tooManyArguments := hargs
    have hxfer : (Instr.xfer op args n d).malformed = some .tooManyArguments := by
      rw [Instr.malformed, hargs, Option.some_or]
    exact ⟨exec_malformed hwr s, exec_malformed hxfer s, issue_encode_malformed hwr s, issue_encode_malformed hxfer s⟩
  · have hcount := countMalformed_of_lt h
    have hrd : (Instr.rdWords n d).malformed = some .tooManyWords := hcount
    have hxfer : (Instr.xfer op args n d).malformed = some .tooManyWords := by
      rw [Instr.malformed, (argsMalformed_eq_none args).mpr ha, Option.none_or, hcount]
    exact ⟨exec_malformed hrd s, exec_malformed hxfer s, issue_encode_malformed hrd s, issue_encode_malformed hxfer s⟩

end Sys2Proof.Machine
end

section
/-! SUPPORT. The operations of XFER's template: each operation with a row of `Instr.transfer` is XFER of that row, whose
result its caller gets through one function (42_commands.md R110, R111).  From that, what such an operation does for
each answer of the bus, and which errors an operation can end with. -/

namespace Sys2Proof.Machine

/-! ### A part that follows another -/

/-- The run `r'` makes the calls of `r` and ends with the result of `r` carried through `f`. -/
structure Run.Follows {α β : Type} (r' : Run β) (r : Run α) (s : State) (f : Result α → Result β) : Prop where
  ends : ∀ {es : List Event} {x : Result α}, r.Ends s es x → r'.Ends s es (f x)
  waits : ∀ {es : List Event} {p : Phase}, r.Waits s es p → r'.Waits s es p

theorem Run.Follows.trans {α β γ : Type} {r : Run α} {r' : Run β} {r'' : Run γ} {s : State}
    {f : Result α → Result β} {g : Result β → Result γ} (h' : r''.Follows r' s g) (h : r'.Follows r s f) :
    r''.Follows r s fun x => g (f x) :=
  ⟨fun hx => h'.ends (h.ends hx), fun hx => h'.waits (h.waits hx)⟩

theorem Run.follows_interpret (r : Run Words) (s : State) (f : Words → Value) :
    (r.interpret f).Follows r s (Result.map f) :=
  ⟨fun h => h.interpret f, fun h => h.andThen _⟩

/-- A last step that only makes the caller's value (R61). -/
theorem Run.follows_returning {α : Type} (r : Run α) (s : State) (f : α → Value) :
    (r.andThen fun v t => .done (f v) t).Follows r s (Result.map f) :=
  ⟨fun h => h.andThen f id fun t => t.moved_setAcc t.acc, fun h => h.andThen _⟩

/-- A TransportError becomes success with no word (R120, R141). -/
def Result.swallowTransport : Result Words → Result Words
  | .err .transportError => .ok []
  | x => x

theorem Run.follows_swallowTransport (r : Run Words) (s : State) :
    r.swallowTransport.Follows r s Result.swallowTransport where
  ends := by
    rintro es x ⟨t, hm, rfl⟩
    refine ⟨t, hm, ?_⟩
    cases x with
    | ok v => rfl
    | err k => cases k <;> rfl
  waits h := h.swallowTransport

/-- The write path alone follows XFER of no word and no delay, whose read path makes no call (R95, R100). -/
theorem State.wrFrame_follows_xfer (s : State) (op : Word) (args : Words) :
    (s.wrFrame op args).Follows (s.xfer op args 0 0) s (Result.map fun _ => ()) := by
  unfold State.xfer
  generalize s.wrFrame op args = r
  cases r with
  | done v u =>
    refine ⟨?_, fun ⟨t, _, _, he⟩ => by cases he⟩
    rintro es x ⟨t, hm, he⟩
    cases x with
    | ok ws => cases he; exact ⟨u, ⟨hm.addr, hm.bus, hm.delays, hm.result, hm.requests, hm.freeIndex⟩, rfl⟩
    | err k => cases he
  | raised k u =>
    refine ⟨?_, fun ⟨t, _, _, he⟩ => by cases he⟩
    rintro es x ⟨t, hm, he⟩
    cases x with
    | ok ws => cases he
    | err k' => cases he; exact ⟨u, hm, rfl⟩
  | waiting u =>
    refine ⟨?_, fun ⟨t, hm, hp, he⟩ => by cases he; exact ⟨u, hm, hp, rfl⟩⟩
    rintro es x ⟨t, -, he⟩
    cases x <;> cases he

/-! ### The operations of the template -/

/-- The operation `i` issued at `s` is XFER with the operands `x`, within the limits of the port, and the caller gets the
result through `f` (R110, R111). -/
def Performs (i : Instr) (s : State) (x : Transfer) (f : Result Words → Result Value) : Prop :=
  x.args.length ≤ 2 ∧ x.count ≤ 3 ∧ ∃ args body, exec i s = operation args body s ∧
    (body (s.begin args)).Follows ((s.begin args).xfer x.opcode x.args x.count x.delay) (s.begin args) f

end Sys2Proof.Machine

namespace Sys2Proof
open Machine

/-- What an operation of the template makes of the result of its XFER (R111 to R120). -/
def Instr.returns : Instr → Result Words → Result Value
  | .measureIaq => .map asReading
  | .measureRaw => .map asRawSignals
  | .selfTest => .map asVerdict
  | .getBaseline => .map asBaseline
  | .getSerial => .map asSerial
  | .softReset => fun x => x.swallowTransport.map asUnit
  | .xfer _ _ _ _ => .map .words
  | _ => .map asUnit

/-- The kinds of error that the meaning of an operation raises: for arguments that are refused only
InvalidArgumentError, for others never that one (R125). -/
def Instr.raises : Instr → List Kind
  | .setBaseline eco2 tvoc => if eco2 = 0 ∧ tvoc = 0 then [.invalidArgumentError] else [.transportError]
  | .setHumidity v => if v ≤ 0 then [.invalidArgumentError] else [.transportError]
  | i => i.errorKinds

end Sys2Proof

namespace Sys2Proof.Machine

theorem nReads_le_three (c : Command) : c.nReads ≤ 3 := by cases c <;> decide

/-- A command that hands its row to XFER and interprets the words (R111). -/
theorem performs_command {i : Instr} {s : State} {c : Command} {args wire : Words} {f : Words → Value}
    (he : exec i s = operation args (fun s => (s.commandXfer c wire).interpret f) s) (hw : wire.length ≤ 2) :
    Performs i s ⟨c.opcode, wire, c.nReads, c.delay s.delays⟩ (Result.map f) :=
  ⟨hw, nReads_le_three c, _, _, he, Run.follows_interpret _ _ f⟩

/-- Every operation with a row of `Instr.transfer` is XFER of that row (R110 to R120). -/
theorem performs_transfer {i : Instr} {s : State} {x : Transfer} (hwf : i.WellFormed)
    (hx : i.transfer s.delays = some x) : Performs i s x i.returns := by
  obtain ⟨ha, hn, -⟩ := exec_transfer_waits i s x hwf hx
  cases i with
  | iaqInit => cases hx; exact performs_command (exec_iaqInit s) ha
  | measureIaq => cases hx; exact performs_command (exec_measureIaq s) ha
  | measureRaw => cases hx; exact performs_command (exec_measureRaw s) ha
  | selfTest => cases hx; exact performs_command (exec_selfTest s) ha
  | getBaseline => cases hx; exact performs_command (exec_getBaseline s) ha
  | setBaseline eco2 tvoc =>
    by_cases h : eco2 = 0 ∧ tvoc = 0
    · cases (if_pos h).symm.trans hx
    · cases (if_neg h).symm.trans hx
      exact performs_command (exec_setBaseline s eco2 tvoc h) ha
  | setHumidity v =>
    by_cases h : v ≤ 0
    · cases (if_pos h).symm.trans hx
    · cases (if_neg h).symm.trans hx
      exact performs_command (exec_setHumidity s v h) ha
  | getSerial => cases hx; exact performs_command (exec_getSerial s) ha
  | softReset =>
    cases hx
    exact ⟨ha, hn, _, _, exec_softReset s,
      (Run.follows_interpret _ _ asUnit).trans (Run.follows_swallowTransport _ _)⟩
  | wrFrame op args =>
    cases hx
    refine ⟨ha, hn, _, _, exec_wrFrame s op args ha, ?_⟩
    have h := (Run.follows_returning _ _ fun _ => Value.unit).trans ((s.begin args).wrFrame_follows_xfer op args)
    exact ⟨fun {_ y} hy => by cases y <;> exact h.ends hy, h.waits⟩
  | xfer op args n d => cases hx; exact ⟨ha, hn, _, _, exec_xfer s op args n d ha hn, Run.follows_returning ..⟩
  | _ => cases hx

/-! ### By the answer of the bus -/

section
variable {i : Instr} {s : State} {op : Word} {args : Words} {n : Nat} {d : Dur} {f : Result Words → Result Value}
  (h : Performs i s ⟨op, args, n, d⟩ f) (hidle : s.phase = .idle)
include h hidle

/-- A failed write is a TransportError of the XFER, and nothing more happens (R110, decision D21). -/
theorem Performs.write_fails
    (hw : s.bus.writeReply s.addr (writeFrame op args) = .returned .fail) :
    Completes i s [.write s.addr (writeFrame op args) .fail] (f (.err .transportError)) := by
  obtain ⟨ha, -, given, body, he, hf⟩ := h
  exact .of_ends he hidle (hf.ends ((s.begin given).xfer_write_fails op args n d ha hw))

/-- With no word to read the delay follows the write, and there is no read (R100, decision D5). -/
theorem Performs.no_read (h0 : n = 0)
    (hw : s.bus.writeReply s.addr (writeFrame op args) = .returned .ok) :
    Completes i s (.write s.addr (writeFrame op args) .ok :: sleepEvents d) (f (.ok [])) := by
  obtain ⟨ha, -, given, body, he, hf⟩ := h
  subst h0
  exact .of_ends he hidle (hf.ends ((s.begin given).xfer_zero op args d ha hw))

/-- The answer of the one read decides the result (R98, R110). -/
theorem Performs.answered {a : ReadAnswer} (h0 : n ≠ 0)
    (hw : s.bus.writeReply s.addr (writeFrame op args) = .returned .ok)
    (ha : (s.bus.play (.write s.addr (writeFrame op args) .ok :: sleepEvents d)).readReply s.addr
      (3 * n) = .returned a) :
    Completes i s (.write s.addr (writeFrame op args) .ok ::
      (sleepEvents d ++ [.read s.addr (3 * n) a])) (f (readOutcome n a)) := by
  obtain ⟨hl, hn, given, body, he, hf⟩ := h
  exact .of_ends he hidle
    (hf.ends ((s.begin given).xfer_answered op args n d a hl h0 hn rfl hw ha))

end

/-- Reading the groups of n words gives these words (R93, R98). -/
theorem readOutcome_groups (ws : Words) : readOutcome ws.length (.bytes (ws.flatMap encGroup)) = .ok ws := by
  rw [readOutcome, readFrame_of_length_eq (flatMap_encGroup_length ws), decGroups_flatMap_encGroup]

/-- When the read gives the groups of the words asked for, the caller gets what the operation makes of them. -/
theorem Performs.reads {i : Instr} {s : State} {op : Word} {args : Words} {d : Dur} {f : Result Words → Result Value}
    (ws : Words) (h : Performs i s ⟨op, args, ws.length, d⟩ f) (hidle : s.phase = .idle) (h0 : ws.length ≠ 0)
    (hw : s.bus.writeReply s.addr (writeFrame op args) = .returned .ok)
    (ha : (s.bus.play (.write s.addr (writeFrame op args) .ok :: sleepEvents d)).readReply s.addr (3 * ws.length)
      = .returned (.bytes (ws.flatMap encGroup))) :
    Completes i s (.write s.addr (writeFrame op args) .ok ::
      (sleepEvents d ++ [.read s.addr (3 * ws.length) (.bytes (ws.flatMap encGroup))])) (f (.ok ws)) :=
  readOutcome_groups ws ▸ h.answered hidle h0 hw ha

/-! ### Whatever the bus does -/

/-- What RD_WORDS returns is what XFER returns after a good write (R110). -/
theorem ReadResult.xferResult {n : Nat} {y : Result Words} (h : ReadResult n y) : XferResult n y := by
  cases y with
  | ok ws => exact h
  | err k =>
    obtain ⟨h0, hk⟩ := h
    simp only [List.mem_cons, List.not_mem_nil, or_false] at hk
    exact hk.imp_right fun hk => ⟨h0, hk⟩

/-- XFER makes the write of its frame first, whatever becomes of it, and then ends or waits (R110, R175). -/
theorem State.xfer_begins_with_write (s : State) (op : Word) (args : Words) (n : Nat) (d : Dur) (ha : args.length ≤ 2)
    (hn : n ≤ 3) (hres : s.res = emptyRes) :
    ∃ es, (∃ y, XferResult n y ∧ (s.xfer op args n d).Ends s
        (.ofWrite s.addr (writeFrame op args) (s.bus.writeReply s.addr (writeFrame op args)) :: es) y)
      ∨ ∃ p, (s.xfer op args n d).Waits s
        (.ofWrite s.addr (writeFrame op args) (s.bus.writeReply s.addr (writeFrame op args)) :: es) p := by
  cases hw : s.bus.writeReply s.addr (writeFrame op args) with
  | neverReturns => exact ⟨[], .inr ⟨.write, s.xfer_write_waits op args n d ha hw⟩⟩
  | returned a =>
    cases a with
    | fail => exact ⟨[], .inl ⟨.err .transportError, Or.inl rfl, s.xfer_write_fails op args n d ha hw⟩⟩
    | ok =>
      obtain ⟨t, hm, ⟨hres', -⟩, he⟩ := s.xfer_write_ok op args n d ha hw
      rw [he]
      obtain ⟨es, -, -, ⟨y, hy, hends, -⟩ | ⟨-, -, p, -, -, -, hwaits⟩⟩ := t.rdWords_can n d hn (hres'.trans hres)
      · exact ⟨es, .inl ⟨y, hy.xferResult, hends.of_moved hm⟩⟩
      · exact ⟨es, .inr ⟨p, hwaits.of_moved hm⟩⟩

/-- Everything an operation of the template can do that answers a next state: the write of its frame, further calls, and,
unless it waits, a result that XFER can return, carried through `f`. -/
theorem Performs.issued {i : Instr} {s t : State} {x : Transfer} {f : Result Words → Result Value}
    (h : Performs i s x f) (he : exec i s = .next t) :
    ∃ es, t.bus = s.bus.play (.ofWrite s.addr (writeFrame x.opcode x.args)
        (s.bus.writeReply s.addr (writeFrame x.opcode x.args)) :: es)
      ∧ ∀ r, t.result = some r → ∃ y, XferResult x.count y ∧ r = f y := by
  obtain ⟨hidle, -⟩ := exec_next he
  obtain ⟨ha, hn, args, body, hop, hf⟩ := h
  rw [hop] at he
  obtain ⟨es, ⟨y, hy, hends⟩ | ⟨p, hwaits⟩⟩ :=
    (s.begin args).xfer_begins_with_write x.opcode x.args x.count x.delay ha hn rfl
  · obtain ⟨u, hu, hret⟩ := operation_ends hidle (hf.ends hends)
    cases hu.symm.trans he
    exact ⟨es, hret.bus, fun r hr => ⟨y, hy, Option.some.inj (hr.symm.trans hret.result)⟩⟩
  · obtain ⟨u, hu, hm, -, -⟩ := operation_waits hidle (hf.waits hwaits)
    cases hu.symm.trans he
    exact ⟨es, hm.bus, fun r hr => by cases hm.result.symm.trans hr⟩

/-! ### Which errors an operation ends with -/

@[simp] theorem Result.map_eq_err_iff {α β : Type} {g : α → β} {x : Result α} {k : Kind} :
    x.map g = .err k ↔ x = .err k := by
  cases x <;> simp [Result.map]

/-- XFER of no word fails with its write alone (R110, R132). -/
theorem XferResult.err_zero {k : Kind} (h : XferResult 0 (.err k)) : k = .transportError :=
  h.resolve_right fun h => h.1 rfl

theorem XferResult.err_mem {n : Nat} {k : Kind} (h : XferResult n (.err k)) :
    k ∈ [Kind.transportError, .framingLengthError, .checksumError] := by
  obtain rfl | ⟨-, rfl | rfl⟩ := h <;> decide

/-- No error of its XFER reaches the caller of SOFT_RESET (R141). -/
theorem XferResult.swallowTransport_ne_err {y : Result Words} (h : XferResult 0 y) (k : Kind) :
    y.swallowTransport ≠ .err k := by
  cases y with
  | ok ws => exact nofun
  | err k' => cases h.err_zero; exact nofun

/-- An error of an operation of the template is one that its XFER can return (R132 to R134). -/
theorem raises_of_transfer {i : Instr} {d : Delays} {x : Transfer} {y : Result Words} {k : Kind}
    (hx : i.transfer d = some x) (hy : XferResult x.count y) (hk : i.returns y = .err k) : k ∈ i.raises := by
  have hsame : ∀ {f : Words → Value}, y.map f = .err k → XferResult x.count (.err k) := fun hf =>
    Result.map_eq_err_iff.mp hf ▸ hy
  cases i with
  | iaqInit => cases hx; exact List.mem_singleton.mpr (hsame hk).err_zero
  | measureIaq => cases hx; exact (hsame hk).err_mem
  | measureRaw => cases hx; exact (hsame hk).err_mem
  | selfTest => cases hx; exact (hsame hk).err_mem
  | getBaseline => cases hx; exact (hsame hk).err_mem
  | getSerial => cases hx; exact (hsame hk).err_mem
  | setBaseline eco2 tvoc =>
    by_cases h : eco2 = 0 ∧ tvoc = 0
    · cases (if_pos h).symm.trans hx
    · cases (if_neg h).symm.trans hx
      rw [Instr.raises, if_neg h]
      exact List.mem_singleton.mpr (hsame hk).err_zero
  | setHumidity v =>
    by_cases h : v ≤ 0
    · cases (if_pos h).symm.trans hx
    · cases (if_neg h).symm.trans hx
      rw [Instr.raises, if_neg h]
      exact List.mem_singleton.mpr (hsame hk).err_zero
  | softReset => cases hx; exact absurd (Result.map_eq_err_iff.mp hk) (hy.swallowTransport_ne_err k)
  | wrFrame op args => cases hx; exact List.mem_singleton.mpr (hsame hk).err_zero
  | xfer op args n dur =>
    cases hx
    by_cases h0 : n = 0
    · subst h0
      exact List.mem_singleton.mpr (hsame hk).err_zero
    · simpa [Instr.raises, Instr.errorKinds, h0] using (hsame hk).err_mem
  | _ => cases hx

/-- RD_WORDS ends in error only with what its read can return (R132 to R134, R100). -/
theorem rdWords_raises {s t : State} {n : Nat} {d : Dur} {k : Kind} (he : exec (.rdWords n d) s = .next t)
    (hr : t.result = some (.err k)) : k ∈ (Instr.rdWords n d).raises := by
  obtain ⟨hidle, -⟩ := exec_next he
  by_cases h0 : n = 0
  · subst h0
    cases (rdWords_zero_completes s d hidle).result_eq he hr
  cases ha : (s.bus.play (sleepEvents d)).readReply s.addr (3 * n) with
  | neverReturns => cases (rdWords_pending_result he h0 ha).symm.trans hr
  | returned a =>
    have hn : n ≤ 3 := (countMalformed_eq_none n).mp (wellFormed_of_exec_next he)
    have herr := (rdWords_completes s n d a hidle h0 hn ha).result_eq he hr
    rw [Result.asWords_eq_map, Result.map_eq_err_iff] at herr
    simpa [Instr.raises, Instr.errorKinds, h0] using (herr ▸ readOutcome_xfer n a h0 : XferResult n (.err k)).err_mem

/-- The pair of two zeros is refused with no call (R125). -/
theorem setBaseline_zeros_completes (s : State) (hidle : s.phase = .idle) :
    Completes (.setBaseline 0 0) s [] (.err .invalidArgumentError) :=
  .of_ends (exec_setBaseline_invalid s) hidle ⟨_, State.moved_setAcc _ _, rfl⟩

/-- A value that is not positive is refused with no call (R125). -/
theorem setHumidity_nonpos_completes (s : State) (v : Rat) (hidle : s.phase = .idle) (hv : v ≤ 0) :
    Completes (.setHumidity v) s [] (.err .invalidArgumentError) :=
  .of_ends (exec_setHumidity_invalid s v hv) hidle ⟨_, State.moved_setAcc _ _, rfl⟩

/-- An operation that ends in error ends with one that its meaning raises (R132 to R136). -/
theorem exec_raises {i : Instr} {s t : State} {k : Kind} (he : exec i s = .next t)
    (hr : t.result = some (.err k)) : k ∈ i.raises := by
  obtain ⟨hidle, -⟩ := exec_next he
  cases hx : i.transfer s.delays with
  | some x =>
    obtain ⟨-, -, hres⟩ := (performs_transfer (wellFormed_of_exec_next he) hx).issued he
    obtain ⟨y, hy, hk⟩ := hres _ hr
    exact raises_of_transfer hx hy hk.symm
  | none =>
    cases i with
    | setBaseline eco2 tvoc =>
      by_cases h : eco2 = 0 ∧ tvoc = 0
      · obtain ⟨rfl, rfl⟩ := h
        cases (setBaseline_zeros_completes s hidle).result_eq he hr
        decide
      · cases (if_neg h).symm.trans hx
    | setHumidity v =>
      by_cases h : v ≤ 0
      · cases (setHumidity_nonpos_completes s v hidle h).result_eq he hr
        simp [Instr.raises, h]
      · cases (if_neg h).symm.trans hx
    | crc8 bs => cases (crc8_completes s bs hidle).result_eq he hr
    | encWord w => cases (encWord_completes s w hidle).result_eq he hr
    | decGroup b0 b1 b2 =>
      have herr := (decGroup_completes s b0 b1 b2 hidle).result_eq he hr
      exact List.mem_singleton.mpr (decGroup_err (Result.map_eq_err_iff.mp herr))
    | rdWords n d => exact rdWords_raises he hr
    | _ => cases hx

/-- Only refused arguments raise InvalidArgumentError (R125, R135). -/
theorem invalidArgument_mem_raises_iff {i : Instr} :
    Kind.invalidArgumentError ∈ i.raises ↔ i = .setBaseline 0 0 ∨ ∃ v : Rat, v ≤ 0 ∧ i = .setHumidity v := by
  cases i with
  | setBaseline eco2 tvoc =>
    by_cases h : eco2 = 0 ∧ tvoc = 0
    · obtain ⟨rfl, rfl⟩ := h
      exact iff_of_true (by decide) (.inl rfl)
    · rw [Instr.raises, if_neg h]
      simpa using h
  | setHumidity v => by_cases h : v ≤ 0 <;> simp [Instr.raises, h]
  | rdWords n d => by_cases h : n = 0 <;> simp [Instr.raises, Instr.errorKinds, h]
  | xfer op args n d => by_cases h : n = 0 <;> simp [Instr.raises, Instr.errorKinds, h]
  | _ => simp [Instr.raises, Instr.errorKinds]

end Sys2Proof.Machine
end

section
/-! SUPPORT. The statements of 42_commands.md, settled: XFER, the commands that read, the commands that write, the
humidity encoding, refused arguments, and the order of the baseline words. -/

namespace Sys2Proof.Machine

/-! ### XFER -/

/-- Settles O24: XFER is the template itself; a word count of 0 makes no read, another is answered by its read. -/
theorem xferWritesThenReads : Obligations.XferWritesThenReads := by
  unfold Obligations.XferWritesThenReads
  intro s op args n d hidle ha hn
  have hwf : (Instr.xfer op args n d).WellFormed :=
    Option.or_eq_none_iff.mpr ⟨(argsMalformed_eq_none args).mpr ha, (countMalformed_eq_none n).mpr hn⟩
  have h := performs_transfer (s := s) hwf rfl
  refine ⟨h.write_fails hidle, fun hw h0 => h.no_read hidle h0 hw, fun a hw h0 hread => ?_⟩
  refine ⟨readOutcome n a, readGives_readOutcome n a, ?_⟩
  rw [Result.asWords_eq_map]
  exact h.answered hidle h0 hw hread

/-! ### The commands that read -/

/-- Settles O27: the two words read are the reading. -/
theorem measureIaqReturnsTheReading : Obligations.MeasureIaqReturnsTheReading := by
  unfold Obligations.MeasureIaqReturnsTheReading
  intro s w0 w1 hidle hw hread
  have h := performs_transfer (i := .measureIaq) (s := s) rfl rfl
  exact h.reads [w0, w1] hidle nofun hw hread

/-- Settles O28: the two words read are the signals. -/
theorem measureRawReturnsTheSignals : Obligations.MeasureRawReturnsTheSignals := by
  unfold Obligations.MeasureRawReturnsTheSignals
  intro s w0 w1 hidle hw hread
  have h := performs_transfer (i := .measureRaw) (s := s) rfl rfl
  exact h.reads [w0, w1] hidle nofun hw hread

/-- Settles O29: the verdict is the comparison of the one word with SELFTEST_PASS. -/
theorem selfTestReturnsTheVerdict : Obligations.SelfTestReturnsTheVerdict := by
  unfold Obligations.SelfTestReturnsTheVerdict
  intro s w hidle hw hread
  have h := performs_transfer (i := .selfTest) (s := s) rfl rfl
  have hcomp : Completes .selfTest s _ (.ok (.verdict (w = 0xD400))) := h.reads [w] hidle nofun hw hread
  exact ⟨fun hpass => decide_eq_true hpass ▸ hcomp, fun hfail => decide_eq_false hfail ▸ hcomp⟩

/-- Settles O30: the one order conversion turns wire order into logical order. -/
theorem getBaselineSwapsOnRead : Obligations.GetBaselineSwapsOnRead := by
  unfold Obligations.GetBaselineSwapsOnRead
  intro s eco2 tvoc hidle hw hread
  have h := performs_transfer (i := .getBaseline) (s := s) rfl rfl
  exact h.reads [tvoc, eco2] hidle nofun hw hread

/-- The serial number in the arithmetic of R33. -/
theorem serialOf_eq_ofNat (w0 w1 w2 : Word) :
    serialOf w0 w1 w2 = BitVec.ofNat 48 (w0.toNat * 2 ^ 32 + w1.toNat * 2 ^ 16 + w2.toNat) := by
  apply BitVec.eq_of_toNat_eq
  have hlow : w1.toNat <<< 16 + w2.toNat < 2 ^ 32 := by rw [Nat.shiftLeft_eq]; omega
  calc (serialOf w0 w1 w2).toNat
      = w0.toNat <<< 32 ||| (w1.toNat <<< 16 ||| w2.toNat) := by
        simp (disch := omega) only [serialOf, BitVec.toNat_or, BitVec.toNat_shiftLeft, BitVec.toNat_setWidth,
          Nat.shiftLeft_eq, Nat.mod_eq_of_lt, Nat.or_assoc]
    _ = w0.toNat <<< 32 + (w1.toNat <<< 16 + w2.toNat) := by
        rw [Nat.shiftLeft_add_eq_or_of_lt hlow, Nat.shiftLeft_add_eq_or_of_lt w2.isLt]
    _ = w0.toNat * 2 ^ 32 + w1.toNat * 2 ^ 16 + w2.toNat := by
        rw [Nat.shiftLeft_eq, Nat.shiftLeft_eq, Nat.add_assoc]
    _ = (BitVec.ofNat 48 (w0.toNat * 2 ^ 32 + w1.toNat * 2 ^ 16 + w2.toNat)).toNat := by
        rw [BitVec.toNat_ofNat, Nat.mod_eq_of_lt (by omega)]

/-- Settles O35: the three words read, the first the most significant. -/
theorem getSerialAssemblesBigEndian : Obligations.GetSerialAssemblesBigEndian := by
  unfold Obligations.GetSerialAssemblesBigEndian
  intro s w0 w1 w2 hidle hw hread
  have h := performs_transfer (i := .getSerial) (s := s) rfl rfl
  rw [← serialOf_eq_ofNat]
  exact h.reads [w0, w1, w2] hidle nofun hw hread

/-! ### The commands that write -/

/-- Settles O26: by the answer to the one write. -/
theorem iaqInitWritesAndWaits : Obligations.IaqInitWritesAndWaits := by
  unfold Obligations.IaqInitWritesAndWaits
  intro s hidle
  have h := performs_transfer (i := .iaqInit) (s := s) rfl rfl
  exact ⟨h.no_read hidle rfl, h.write_fails hidle⟩

/-- Settles O31: the words stand in the frame in wire order; by the answer to the one write. -/
theorem setBaselineSwapsOnWrite : Obligations.SetBaselineSwapsOnWrite := by
  unfold Obligations.SetBaselineSwapsOnWrite
  intro s eco2 tvoc hidle hne
  have h := performs_transfer (i := .setBaseline eco2 tvoc) (s := s) rfl (if_neg hne)
  exact ⟨h.no_read hidle rfl, h.write_fails hidle⟩

/-- Settles O32: a positive value is not refused; by the answer to the one write. -/
theorem setHumidityWritesTheFixedPoint : Obligations.SetHumidityWritesTheFixedPoint := by
  unfold Obligations.SetHumidityWritesTheFixedPoint
  intro s v hidle hv
  have h := performs_transfer (i := .setHumidity v) (s := s) rfl (if_neg (not_le.mpr hv))
  exact ⟨h.no_read hidle rfl, h.write_fails hidle⟩

/-- Settles O36: by the answer to the one write; the failure is swallowed. -/
theorem softResetSwallowsTransportErrors : Obligations.SoftResetSwallowsTransportErrors := by
  unfold Obligations.SoftResetSwallowsTransportErrors
  intro s hidle
  have h := performs_transfer (i := .softReset) (s := s) rfl rfl
  exact ⟨h.no_read hidle rfl, h.write_fails hidle⟩

/-! ### The humidity encoding -/

/-- A distance is at most one half when, counted in parts of size 1/d, it is at most half of `d`. -/
theorem abs_le_half_of_mul_le {x d : Rat} (hd : 0 < d) (h : |x * d| ≤ d / 2) : |x| ≤ 1 / 2 := by
  rw [abs_mul, abs_of_pos hd] at h
  exact le_of_mul_le_mul_right (by linarith) hd

/-- 256 v is its integer part and the remainder's part of the denominator (R124). -/
theorem mul_256_sub_quotient (v : Rat) :
    (v * 256 - (v.num * 256 / v.den : Int)) * v.den = (v.num * 256 % v.den : Int) := by
  have hdiv : ((v.den * (v.num * 256 / v.den) + v.num * 256 % v.den : Int) : Rat) = (v.num * 256 : Int) :=
    congrArg _ (Int.mul_ediv_add_emod ..)
  push_cast at hdiv ⊢
  have hnum : v * v.den = v.num := v.mul_den_eq_num
  linear_combination 256 * hnum - hdiv

section
variable {y : Rat} {d : Nat} {k r : Int} (hd : 0 < d) (hsub : (y - k) * d = r)
include hd hsub

/-- With a remainder of at most half the denominator the integer part is a nearest integer. -/
theorem abs_sub_le_half (h0 : 0 ≤ r) (h : 2 * r ≤ d) : |y - k| ≤ 1 / 2 := by
  have h0' : (0 : Rat) ≤ r := by exact_mod_cast h0
  have h' : (2 * r : Rat) ≤ d := by exact_mod_cast h
  apply abs_le_half_of_mul_le (Nat.cast_pos.mpr hd)
  rw [hsub, abs_of_nonneg h0']
  linarith

/-- With a remainder of at least half the denominator its successor is. -/
theorem abs_sub_succ_le_half (h1 : r < d) (h : d ≤ 2 * r) : |y - (k + 1 : Int)| ≤ 1 / 2 := by
  have h1' : (r : Rat) < d := by exact_mod_cast h1
  have h' : (d : Rat) ≤ 2 * r := by exact_mod_cast h
  have hrest : (y - (k + 1 : Int)) * d = r - d := by push_cast; linear_combination hsub
  apply abs_le_half_of_mul_le (Nat.cast_pos.mpr hd)
  rw [hrest, abs_of_neg (by linarith)]
  linarith

end

/-- `round` gives a nearest integer: below the half it goes down, above it up, and on a tie both are as near (R124). -/
theorem abs_sub_humRound_le (v : Rat) : |v * 256 - humRound v| ≤ 1 / 2 := by
  have hd : (0 : Int) < v.den := Int.natCast_pos.mpr v.den_pos
  have hdown := abs_sub_le_half v.den_pos (mul_256_sub_quotient v) (Int.emod_nonneg _ hd.ne')
  have hup := abs_sub_succ_le_half v.den_pos (mul_256_sub_quotient v) (Int.emod_lt_of_pos _ hd)
  simp only [humRound]
  split_ifs with hlt hgt htie
  · exact hdown hlt.le
  · exact hup hgt.le
  · exact hup (not_lt.mp hlt)
  · exact hdown (not_lt.mp hgt)

/-- The encoding as a number: the rounded value modulo 65536, and 1 where that is 0 (R124, decision D14). -/
theorem humFix_toNat (v : Rat) :
    ((humFix v).toNat : Int) = if humRound v % 65536 = 0 then 1 else humRound v % 65536 := by
  have hmask : ((BitVec.ofInt 16 (humRound v)).toNat : Int) = humRound v % 65536 := by
    rw [BitVec.toNat_ofInt]
    exact Int.toNat_of_nonneg (Int.emod_nonneg _ (by decide))
  have hzero : BitVec.ofInt 16 (humRound v) = 0 ↔ humRound v % 65536 = 0 := by
    rw [← hmask, Int.natCast_eq_zero, BitVec.toNat_eq]
    rfl
  by_cases h : humRound v % 65536 = 0
  · rw [if_pos h, humFix, if_pos (hzero.mpr h)]
    rfl
  · rw [if_neg h, humFix, if_neg (mt hzero.mp h), hmask]

/-- Settles O33: the rounded value is the nearest integer asked for. -/
theorem humidityIsNearestFixedPoint : Obligations.HumidityIsNearestFixedPoint := by
  unfold Obligations.HumidityIsNearestFixedPoint
  exact fun v _ => ⟨humRound v, abs_sub_humRound_le v, humFix_toNat v⟩

/-! ### Refused arguments -/

/-- Settles O34: refused arguments are answered before the template begins, and no other operation raises the error. -/
theorem invalidArgumentsNeverReachTheBus : Obligations.InvalidArgumentsNeverReachTheBus := by
  unfold Obligations.InvalidArgumentsNeverReachTheBus
  refine ⟨fun s hidle => ⟨setBaseline_zeros_completes s hidle, fun v => setHumidity_nonpos_completes s v hidle⟩, ?_⟩
  exact fun i s t he hr => invalidArgument_mem_raises_iff.mp (exec_raises he hr)

/-! ### The order of the baseline words -/

/-- A SET_BASELINE whose first call was a write sent the frame with the words in wire order (R117). -/
theorem setBaseline_frame {s t : State} {eco2 tvoc : Word} {a : Addr7} {frame : Bytes} {es : List Event}
    {r : WriteAnswer} (he : exec (.setBaseline eco2 tvoc) s = .next t)
    (hhist : t.bus.history = s.bus.history ++ .write a frame r :: es) :
    frame = writeFrame 0x201E [tvoc, eco2] := by
  by_cases hzero : eco2 = 0 ∧ tvoc = 0
  · obtain ⟨rfl, rfl⟩ := hzero
    obtain ⟨hidle, -⟩ := exec_next he
    rw [((setBaseline_zeros_completes s hidle).returned he).bus, Bus.play_history, List.append_cancel_left_eq] at hhist
    cases hhist
  · have h := performs_transfer (i := .setBaseline eco2 tvoc) (s := s) rfl (if_neg hzero)
    obtain ⟨fs, hbus, -⟩ := h.issued he
    rw [hbus, Bus.play_history, List.append_cancel_left_eq] at hhist
    obtain ⟨hfirst, -⟩ := List.cons.inj hhist
    generalize s.bus.writeReply _ _ = reply at hfirst
    cases reply <;> cases hfirst
    rfl

/-- Settles O38: the bytes after the opcode are the groups in wire order, which GET_BASELINE swaps back. -/
theorem baselineOrderRoundTrips : Obligations.BaselineOrderRoundTrips := by
  unfold Obligations.BaselineOrderRoundTrips
  intro s t s' eco2 tvoc frame he hhist hidle' hw hread
  cases setBaseline_frame he hhist
  obtain ⟨t', he', hret⟩ := getBaselineSwapsOnRead s' eco2 tvoc hidle' hw hread
  exact ⟨t', he', hret.result⟩

end Sys2Proof.Machine
end

section
/-! SUPPORT. The statements of 60_exceptions.md, settled: the errors a reading command relays, the error kinds of each
operation, how an operation ends, the port between and during operations, and the status output. -/

namespace Sys2Proof.Machine

/-! ### The errors of the reading commands -/

/-- A reading command takes no argument, hands XFER its row of R56, reads a word or more, and passes on every error of
its XFER (R113 to R116, R119, R133). -/
theorem transfer_of_mem_readers {i : Instr} {c : Command} (h : (i, c) ∈ readers) (d : Delays) :
    i.WellFormed ∧ i.transfer d = some ⟨c.opcode, [], c.nReads, c.delay d⟩ ∧ c.nReads ≠ 0
      ∧ ∀ k, i.returns (.err k) = .err k := by
  simp only [readers, List.mem_cons, Prod.mk.injEq, List.not_mem_nil, or_false] at h
  obtain ⟨rfl, rfl⟩ | ⟨rfl, rfl⟩ | ⟨rfl, rfl⟩ | ⟨rfl, rfl⟩ | ⟨rfl, rfl⟩ := h
  all_goals exact ⟨rfl, rfl, nofun, fun _ => rfl⟩

/-- A read of another length is a FramingLengthError (R133). -/
theorem readOutcome_of_length_ne {n : Nat} {bs : Bytes} (h : bs.length ≠ 3 * n) :
    readOutcome n (.bytes bs) = .err .framingLengthError :=
  readFrame_of_length_ne h

/-- A read of the right length that is not a sequence of groups is a ChecksumError (R134). -/
theorem readOutcome_of_not_groups {n : Nat} {bs : Bytes} (hl : bs.length = 3 * n)
    (h : ¬ ∃ ws : Words, bs = ws.flatMap encGroup) : readOutcome n (.bytes bs) = .err .checksumError := by
  obtain ⟨hne, -⟩ | ⟨ws, -, hws, -⟩ | ⟨-, -, herr⟩ := readGives_readOutcome n (.bytes bs)
  · exact absurd hl hne
  · exact absurd ⟨ws, hws⟩ h
  · exact herr

/-- Settles O37: a reading command is XFER of its row, whose errors it passes on; the first cause, by the answer to the
write and then by the answer to the read, decides which error that is. -/
theorem readingCommandsRelayErrors : Obligations.ReadingCommandsRelayErrors := by
  unfold Obligations.ReadingCommandsRelayErrors
  intro i c s hmem hidle frame before
  obtain ⟨hwf, hx, h0, hrelay⟩ := transfer_of_mem_readers hmem s.delays
  have hperf := performs_transfer hwf hx
  refine ⟨fun hw => hrelay .transportError ▸ hperf.write_fails hidle hw, fun hw a ha => ?_⟩
  have hcomp : Completes i s (before ++ [.read s.addr (3 * c.nReads) a]) (i.returns (readOutcome c.nReads a)) :=
    hperf.answered hidle h0 hw ha
  have herr : ∀ k, readOutcome c.nReads a = .err k →
      Completes i s (before ++ [.read s.addr (3 * c.nReads) a]) (.err k) := by
    intro k hk
    rwa [hk, hrelay] at hcomp
  constructor
  · rintro rfl
    exact herr .transportError rfl
  · rintro bs rfl
    exact ⟨fun hl => herr _ (readOutcome_of_length_ne hl),
      fun hl hbad => herr _ (readOutcome_of_not_groups hl hbad)⟩

/-! ### The error kinds of an operation -/

/-- What the meaning of an operation raises stands in its row of the summary table: a SET command raises one of the two
kinds of its row, according to its arguments (R125, R136). -/
theorem raises_subset_errorKinds (i : Instr) : i.raises ⊆ i.errorKinds := by
  cases i with
  | setBaseline eco2 tvoc =>
    simp only [Instr.raises, Instr.errorKinds]
    split <;> decide
  | setHumidity v =>
    simp only [Instr.raises, Instr.errorKinds]
    split <;> decide
  | _ => exact fun _ hk => hk

/-- Settles O39: an operation ends only in an error that its meaning raises, which its row of the table allows. -/
theorem errorKindsAreThoseOfTheTable : Obligations.ErrorKindsAreThoseOfTheTable := by
  unfold Obligations.ErrorKindsAreThoseOfTheTable
  exact fun i s t k he hr => raises_subset_errorKinds i (exec_raises he hr)

/-! ### How an operation ends -/

/-- Returning, with a value or an error, leaves the block between two operations (R139, R140). -/
theorem Returned.between {s t : State} {es : List Event} {r : Result Value} (h : Returned s t es r) : t.Between :=
  ⟨h.phase, h.arg, h.res⟩

/-- A call that has not returned, recorded last, keeps the block hung in its phase (R42, R175). -/
theorem Moved.hung {s t : State} {fs : List Event} {e : Event}
    (h : Moved { s with result := none } t (fs ++ [e])) (he : e.pendingIn = some t.phase) : t.Hung := by
  refine ⟨?_, h.result⟩
  rw [h.bus, Bus.play_history, ← List.append_assoc, List.getLast?_concat]
  exact he

/-- Settles O40: an operation returned, or waits for the last of its calls. -/
theorem operationsReturnOrHang : Obligations.OperationsReturnOrHang := by
  unfold Obligations.OperationsReturnOrHang
  intro i s t _ he
  obtain ⟨-, es, -, -, ⟨x, hret, -⟩ | ⟨fs, e, rfl, -, hp, hm⟩⟩ := exec_next he
  · exact .inl ⟨hret.between, x, hret.result⟩
  · exact .inr (hm.hung hp)

/-! ### The port between and during operations -/

/-- Settles O41: a well-formed operation is a body issued at the port, which between two operations runs to a next
state. -/
theorem everyOperationIsAlwaysAvailable : Obligations.EveryOperationIsAlwaysAvailable := by
  unfold Obligations.EveryOperationIsAlwaysAvailable
  intro i s hwf hidle
  obtain ⟨args, body, -, he⟩ := exec_eq_operation hwf
  exact ⟨_, (he s).trans (if_pos hidle)⟩

/-- Settles O43: a well-formed operation is a body issued at the port, which takes none while another is in progress. -/
theorem overlappingOperationsAreRefused : Obligations.OverlappingOperationsAreRefused := by
  unfold Obligations.OverlappingOperationsAreRefused
  intro i s hwf hbusy
  obtain ⟨args, body, -, he⟩ := exec_eq_operation hwf
  exact (he s).trans (operation_overlapping hbusy)

/-- The caller issues nothing while it is blocked in its call (R148, R175). -/
theorem step_of_phase_ne_idle {s : State} (h : s.phase ≠ .idle) : step s = .next s := if_neg h

/-- With no request, nothing happens between two operations (R138). -/
theorem step_of_no_request {s : State} (hidle : s.phase = .idle) (h : s.requests = []) : step s = .next s := by
  simp only [step, portStep, hidle, if_true, h]

/-- Settles O46: by whether an operation is in progress. -/
theorem nothingHappensBetweenOperations : Obligations.NothingHappensBetweenOperations := by
  unfold Obligations.NothingHappensBetweenOperations
  intro s h
  by_cases hidle : s.phase = .idle
  · exact step_of_no_request hidle (h.resolve_left fun hbusy => hbusy hidle)
  · exact step_of_phase_ne_idle hidle

/-! ### The status output -/

theorem State.status_of_no_result {s : State} (h : s.result = none) : s.status = none :=
  congrArg (Option.map Result.status) h

/-- While there is a result, the status output is its code (R131). -/
theorem State.status_of_result {s : State} {r : Result Value} (h : s.result = some r) : s.status = some r.status :=
  congrArg (Option.map Result.status) h

/-- Settles O44: the code of each result. -/
theorem statusCodes : Obligations.StatusCodes := by
  unfold Obligations.StatusCodes
  intro s
  exact ⟨State.status_of_no_result, fun v => State.status_of_result, State.status_of_result, State.status_of_result,
    State.status_of_result, State.status_of_result⟩

end Sys2Proof.Machine
end

section
/-! SUPPORT. The statements of 70_reset_and_hazards.md, settled: CRC8 from whatever came before, and the operation whose
bus call never returns. -/

namespace Sys2Proof.Machine

/-! ### No operation depends on what came before -/

/-- Settles O4: the engine is loaded anew, so that the completion of CRC8 asks nothing of the state but that it is between
operations. -/
theorem crc8CompletesWithTheChecksum : Obligations.Crc8CompletesWithTheChecksum := by
  unfold Obligations.Crc8CompletesWithTheChecksum
  exact crc8_completes

/-! ### A bus call that never returns -/

/-- XFER leaves its whole frame in TXBUF, however it ends (R18). -/
theorem State.xfer_txbuf (s : State) (op : Word) (args : Words) (n : Nat) (d : Dur) (ha : args.length ≤ 2) :
    (s.xfer op args n d).state.txbuf = writeFrame op args := by
  obtain ⟨hframe, -⟩ := buffersHoldTheFrames
  exact (hframe s op args n d ha).2

/-- A meaning that is an operation waits when its body is left waiting, with the frame that its body left in TXBUF, and
the caller, blocked in its call, issues nothing more (R148, R175). -/
theorem Waits.of_waits {i : Instr} {args : Words} {body : State → Run Value} {s : State} {es : List Event} {p : Phase}
    {frame : Option Bytes} (he : exec i s = operation args body s) (hidle : s.phase = .idle) (hp : p ≠ .idle)
    (h : (body (s.begin args)).Waits (s.begin args) es p)
    (htx : ∀ bs, frame = some bs → (body (s.begin args)).state.txbuf = bs) : Waits i s es p frame := by
  obtain ⟨t, hnext, hm, rfl, hrun⟩ := operation_waits hidle h
  rw [hrun] at htx
  exact ⟨t, he.trans hnext, ⟨hm.addr, hm.bus, hm.delays, rfl, htx, hm.result, hm.requests⟩, step_of_phase_ne_idle hp⟩

/-- An operation of the template waits where XFER of its row does, with the whole frame in TXBUF (R18, R110, R175). -/
theorem Waits.of_transfer {i : Instr} {s : State} {x : Transfer} {es : List Event} {p : Phase} (hwf : i.WellFormed)
    (hx : i.transfer s.delays = some x) (hidle : s.phase = .idle) (hp : p ≠ .idle)
    (h : ∀ args, ((s.begin args).xfer x.opcode x.args x.count x.delay).Waits (s.begin args) es p) :
    Waits i s es p (some (writeFrame x.opcode x.args)) := by
  obtain ⟨ha, -, args, body, he, hbody⟩ := exec_transfer_waits i s x hwf hx
  obtain ⟨t, hm, hphase, hrun⟩ := h args
  have htx := (s.begin args).xfer_txbuf x.opcode x.args x.count x.delay ha
  rw [hrun] at htx
  refine .of_waits he hidle hp ⟨t, hm, hphase, hbody t hrun⟩ fun bs hbs => ?_
  rw [hbody t hrun]
  exact htx.trans (Option.some.inj hbs)

/-- RD_WORDS whose read never returns waits in READ (R98, R175). -/
theorem rdWords_read_waits (s : State) (n : Nat) (d : Dur) (hidle : s.phase = .idle) (h0 : n ≠ 0) (hn : n ≤ 3)
    (hr : (s.bus.play (sleepEvents d)).readReply s.addr (3 * n) = .neverReturns) :
    Waits (.rdWords n d) s (sleepEvents d ++ [.readPending s.addr (3 * n)]) .read none :=
  .of_waits (exec_rdWords s n d hn) hidle (by decide) (((s.begin []).rdWords_waits n d h0 hr).andThen _) nofun

/-- Settles O42: an operation of the template waits in the write of its XFER or in the read, RD_WORDS in its read. -/
theorem hungCallGivesNoResult : Obligations.HungCallGivesNoResult := by
  unfold Obligations.HungCallGivesNoResult
  refine ⟨fun i s x hwf hidle hx => ?_, fun s n d hidle h1 hn hr =>
    rdWords_read_waits s n d hidle (Nat.one_le_iff_ne_zero.mp h1) hn hr⟩
  obtain ⟨ha, -⟩ := exec_transfer_waits i s x hwf hx
  constructor
  · intro hw
    exact .of_transfer hwf hx hidle (by decide) fun args =>
      (s.begin args).xfer_write_waits x.opcode x.args x.count x.delay ha hw
  · intro hw h0 hr
    exact .of_transfer hwf hx hidle (by decide) fun args =>
      (s.begin args).xfer_read_waits x.opcode x.args x.count x.delay ha h0 hw hr

end Sys2Proof.Machine
end
